-- ==== Sys2Proof/Word.lean ====
section
/-! DEFINITION. Word types, sparse tables keyed by a number, and the plainest arithmetic on them. -/

namespace Sys2Proof

abbrev Byte := BitVec 8

/-- A sparse table: entries with rising keys; a key that is not listed reads as the default given at the read. -/
abbrev Tab (α : Type) := List (Nat × α)

/-- Memory as (address, byte) pairs (Host.Cell), addresses rising, no byte that an unlisted address reads as. -/
abbrev Memory := List Host.Cell

def Tab.get {α : Type} (d : α) : Tab α → Nat → α
  | [], _ => d
  | (k, v) :: t, n => if n = k then v else Tab.get d t n

def Tab.set {α : Type} : Tab α → Nat → α → Tab α
  | [], n, x => [(n, x)]
  | (k, v) :: t, n, x =>
    if n < k then (n, x) :: (k, v) :: t
    else if n = k then (n, x) :: t
    else (k, v) :: Tab.set t n x

/-- Change one entry of a table. -/
def Tab.upd {α : Type} (d : α) (t : Tab α) (n : Nat) (f : α → α) : Tab α :=
  Tab.set t n (f (Tab.get d t n))

/-- Every key below n, written out with f applied: a change of all members of a fixed family. -/
def Tab.mapAll {α : Type} (d : α) (n : Nat) (f : Nat → α → α) (t : Tab α) : Tab α :=
  (List.range n).map fun k => (k, f k (Tab.get d t k))

/-- The keys below n whose entry meets p. -/
def Tab.keysWhere {α : Type} (d : α) (n : Nat) (p : Nat → α → Bool) (t : Tab α) : List Nat :=
  (List.range n).filter fun k => p k (Tab.get d t k)

/-- Take away every entry of a key. -/
def Tab.erase {α : Type} (t : Tab α) (n : Nat) : Tab α := t.filter fun e => decide (e.1 ≠ n)

/-- A saturating sum (R103, R126, R271, R375: counters saturate). -/
def satAdd (top a b : Nat) : Nat := min top (a + b)

def sat32 (a b : Nat) : Nat := satAdd 4294967295 a b

def sat16 (a b : Nat) : Nat := satAdd 65535 a b

/-- Difference modulo m, the way serial numbers are compared. -/
def subMod (m a b : Nat) : Nat := (a + m - b % m) % m

/-- Bits [hi:lo] of a number. -/
def bits (w hi lo : Nat) : Nat := (w / 2 ^ lo) % 2 ^ (hi + 1 - lo)

/-- One bit of a number. -/
def bitAt (w i : Nat) : Bool := (w / 2 ^ i) % 2 == 1

def ceilDiv (a b : Nat) : Nat := (a + b - 1) / b

end Sys2Proof
end

