-- ==== Sys2Proof/Syntax.lean ====
section
/-! DEFINITION. The commands: one constructor of Instr per row of spec/opcode_table.json, in the table's order,
and the types of their operands. The table gives its rows no bits and no fields (spec/98_reader.md), so the operands
are the model's reading of each row's rule: the place the event happens at, and whatever the outside supplies
(log 8). -/

namespace Sys2Proof

/-- Package key 64 * Stand + package number (R18, Table 1.3). -/
abbrev PkgId := Fin 2048
/-- Package-local logical bole k = 8 * ly + lx (R411). -/
abbrev BoleIx := Fin 64
/-- Physical router position 9 * column + physical row (R19, R21). -/
abbrev RtrIx := Fin 72
/-- Link port (R128). -/
abbrev LinkIx := Fin 16
/-- Age arbiter: 0 to 31 slices, 32 Root DMA, 33 to 48 egress (R84). -/
abbrev ArbIx := Fin 49
/-- Function: 0 the PF, 1 to 16 the VFs. -/
abbrev FnIx := Fin 17
abbrev RingIx := Fin 16
abbrev StandIx := Fin 32

inductive Half | west | east
  deriving DecidableEq, Repr

/-- The two copies of a generation-carrying table (R463). -/
inductive View | committed | staged
  deriving DecidableEq, Repr

/-- Router ports, coded 0 to 4 in this order (R194). -/
inductive Port | north | east | south | west | bole
  deriving DecidableEq, Repr

/-- FTYPE of Table 7.1. -/
inductive FType | head | body | tail | single
  deriving DecidableEq, Repr

/-- OPCODE of Table 7.3. -/
inductive PktOp
  | write | writeShort | read | atomic | signal
  | readData | ack | nack | atomicResult
  | mcast | reduce | eft
  | reserved (code : Nat)
  deriving DecidableEq, Repr, Inhabited

/-- The head header of Table 7.1. dx and dy are true for direction minus. -/
structure Head where
  ftype : FType
  vn : Nat
  vc : Nat
  ord : Bool
  poison : Bool
  dx : Bool
  dy : Bool
  op : PktOp
  age : Nat
  dstX : Nat
  dstY : Nat
  srcX : Nat
  srcY : Nat
  tag : Nat
  alive : Nat
  loc : Nat
  ecrc : Nat
  deriving DecidableEq, Repr

/-- The follower header of Table 7.2. -/
structure Follow where
  last : Bool
  vn : Nat
  vc : Nat
  poison : Bool
  age : Nat
  idx : Nat
  deriving DecidableEq, Repr

inductive FlitHdr
  | head (h : Head)
  | follow (f : Follow)
  deriving DecidableEq, Repr

/-- One 80-byte flit: a header slot and 64 payload bytes (R157). -/
structure Flit where
  hdr : FlitHdr
  data : List Byte
  /-- State.now of its arrival in the buffer it stands in; no part of its 80 bytes (R233). -/
  arrived : Nat := 0
  deriving DecidableEq, Repr

/-- A scheduled flit (Table 8.5). -/
structure SchedFlit where
  stream : Nat
  idx : Nat
  poison : Bool
  isVoid : Bool
  win2 : Nat
  tag : Nat
  data : List Byte
  /-- A header word of it could not be corrected at some hop (R245): what its code says, no part of its 80 bytes. -/
  hdrBad : Bool := false
  deriving DecidableEq, Repr

/-- An eft (Table 13.1). -/
structure Eft where
  kind : Nat
  inbox : Nat
  dstX : Nat
  dstY : Nat
  srcX : Nat
  srcY : Nat
  group : Nat
  word : Nat
  rop : Nat
  fmt : Nat
  dx : Bool
  dy : Bool
  epoch : Nat
  data : BitVec 64
  deriving DecidableEq, Repr, Inhabited

/-- What the per-hop checks of one receiving element, or of one read of a buffer, find on a flit (R241 to R246): single-bit
errors corrected in this many words, a payload word and a header word that cannot be corrected, and both copies of the VN and
VC code with bad parity. The code travels with a flit on links and channels only: of a read codeBad says nothing. -/
structure HopEvent where
  corrected : Nat := 0
  payloadBad : Bool := false
  headerBad : Bool := false
  codeBad : Bool := false
  deriving DecidableEq, Repr

def HopEvent.clean : HopEvent := {}

/-- What one branch of a multicast finds: as its flit is read from the multicast buffer, and at the element that receives
it. -/
structure BranchEvent where
  branch : Port
  read : HopEvent
  arrive : HopEvent
  deriving DecidableEq, Repr

/-- A set of boles (Table 9.2, R218). -/
structure McSet where
  x0 : Nat
  y0 : Nat
  lsx : Nat
  lsy : Nat
  nx : Nat
  ny : Nat
  deriving DecidableEq, Repr, Inhabited

/-- What a bole program pushes to an injection queue: an opcode of Table 7.3 with its destination.
WRITE and WRITE_SHORT name len bytes of leaf memory at src; the other requests carry their payload bytes of
Table 7.4 in body. -/
structure Push where
  op : PktOp
  dstX : Nat
  dstY : Nat
  loc : Nat
  ord : Bool
  src : Nat
  len : Nat
  body : List Byte
  deriving DecidableEq, Repr, Inhabited

/-- An NI DMA transfer of whole granules (R496). -/
structure Dma where
  dstX : Nat
  dstY : Nat
  /-- Address at the other end; for a read, a local address of the bole's overflow window reads through the Root. -/
  loc : Nat
  /-- Leaf address at this end. -/
  leaf : Nat
  granules : Nat
  ord : Bool
  deriving DecidableEq, Repr

/-- A multicast operation as its issuer names it (R220, R230). -/
structure McOp where
  set : McSet
  loc : Nat
  flag : Nat
  src : Nat
  granules : Nat
  record : Nat
  deriving DecidableEq, Repr, Inhabited

/-- What the descriptor of a trigger's action names (R335, Table 13.8): each action uses its own part; chain is the
counter to add to when the action completes. -/
structure TrigDesc where
  push : Push
  mc : McOp
  eft : Eft
  addr : Nat
  value : BitVec 64
  ctr : Nat
  chain : Option Nat
  deriving DecidableEq, Repr, Inhabited

inductive SpFmt | dense | bitmap | two4
  deriving DecidableEq, Repr

/-- DTYPE of Table 5.1. -/
inductive DType | e4m3 | e5m2 | bf16
  deriving DecidableEq, Repr

/-- The operands of a matrix step (R104, Table 5.1), with the leaf addresses of the panel, of C and of the destination. -/
structure MatStep where
  fmt : SpFmt
  mdAddr : Nat
  stride : Nat
  val : Nat
  vasize : Nat
  dtype : DType
  check : Bool
  k : Nat
  panel : Nat
  cin : Nat
  dest : Nat
  deriving DecidableEq, Repr

/-- A compressing store of a dense FP32 tile (R121): rows by cols at leaf address tile, row after row. -/
structure CStore where
  tile : Nat
  rows : Nat
  cols : Nat
  fmt : SpFmt
  mdAddr : Nat
  stride : Nat
  val : Nat
  dtype : DType
  voff : Nat
  deriving DecidableEq, Repr

/-- One cycle of a leaf bank (R59): does the pipeline side want it, and which NI lanes do; lanes 0 to 3 write, 4 to 7 read. -/
structure BankAsk where
  bank : Fin 32
  pipe : Bool
  lanes : List (Fin 8)
  deriving DecidableEq, Repr

/-- What an access to memory meets: the cycles in which a leaf bank that it touches is asked for from both sides (R59), and
the stored 8-byte words of the granules it touches in which an error has come up, true for one that cannot be corrected
(R247). -/
structure MemCond where
  asks : List BankAsk := []
  upsets : List (Nat × Bool) := []
  deriving DecidableEq, Repr

/-- One request presented to an age arbiter (R85). -/
structure ArbReq where
  req : Nat
  len : Nat
  lock : Bool
  isWrite : Bool
  /-- At a link, flits of the whole packet: used at the packet's first request. -/
  pkt : Nat
  /-- At the Root DMA port, a completion record's ring engines: those whose writes the record covers (R94). -/
  covers : List Nat := []
  deriving DecidableEq, Repr

/-- What a withdrawal takes back (R98): the entry that the requester presented, its re-queued loser, or its transfer. -/
inductive ArbWhat | entry | loser | transfer
  deriving DecidableEq, Repr

/-- A check-value unit: a bole's, or a function's in the Root (R272, R273). -/
inductive CvUnit
  | bole (k : BoleIx)
  | root (f : FnIx)
  deriving DecidableEq, Repr

/-- A shaper site (R287). -/
inductive ShSite
  | ni (k : BoleIx)
  | link (l : LinkIx)
  deriving DecidableEq, Repr

/-- A shaper rate, depth or spacing register (Table 18.10). -/
inductive ShField
  | subCir | subPir | subBs
  | cfg (s : Fin 2) | cir (s : Fin 2) | pir (s : Fin 2) | bs (s : Fin 2) | spacing (s : Fin 2)
  | laneW
  deriving DecidableEq, Repr

/-- A watermark register (Table 12.3). -/
inductive WmSel
  | inj (k : BoleIx) (v : Fin 4)
  | inbox (k : BoleIx) (i : Fin 16)
  | arb (i : ArbIx)
  deriving DecidableEq, Repr

/-- The path a register access takes (R459, R460). pcie gives an offset in BAR 0 of the function; mctp one in BAR 0 of
the PF; program and niWrite one in the NI control range of the bole; config one in the configuration space of the function
(log 7). -/
inductive Path
  | pcie (f : FnIx)
  | config (f : FnIx)
  | mctp
  | program (k : BoleIx)
  | niWrite (f : FnIx) (k : BoleIx)
  deriving DecidableEq, Repr

/-- A register that clears when it is read (type RC). -/
inductive RcSel
  | overspend
  | cvMatch (u : CvUnit)
  | cvMismatch (u : CvUnit)
  | wmCount (w : WmSel)
  deriving DecidableEq, Repr

/-- A leaf memory or a half's heartwood. -/
inductive MemSel
  | leaf (k : BoleIx)
  | heart (h : Half)
  deriving DecidableEq, Repr

/-- A link frame as it arrives or leaves (Table 14.2, Table 14.3). -/
structure LinkFrame where
  null : Bool
  seq : Nat
  ack : Nat
  onoff : Nat
  ctl : Nat
  cdata : Nat
  /-- Bits [63:48] of the header. -/
  rsv : Nat
  body : List Byte
  fcrc : Nat
  deriving DecidableEq, Repr

/-- A twig lane frame (Table 14.7). -/
structure LaneFrame where
  kind : Nat
  seq : Nat
  ack : Nat
  onoff : Nat
  eft : Eft
  eseq : Nat
  lcrc : Nat
  deriving DecidableEq, Repr

/-- What a host read ends with (Table 15.12). -/
inductive CplStatus | ok | ur | ca | ep
  deriving DecidableEq, Repr

/-- What a link partner reports in IDENT (R368). -/
structure Ident where
  stand : Nat
  px : Nat
  py : Nat
  link : Nat
  ver : Nat
  eseq : Nat
  turnaround : Nat
  deriving DecidableEq, Repr

/-- What a created glade gets on one package (R66, R73, R387). -/
structure GladePkg where
  pkg : Nat
  vf : Nat
  westBase : Nat
  westSize : Nat
  eastBase : Nat
  eastSize : Nat
  budget : Nat
  /-- (engine, ring number) pairs. -/
  rings : List (Nat × Nat)
  deriving DecidableEq, Repr

/-- A glade to create (R141, R300, Table 17.2). -/
structure GladeSpec where
  tag : Nat
  x0 : Nat
  y0 : Nat
  w : Nat
  h : Nat
  cir : Nat
  pir : Nat
  cbs : Nat
  pbs : Nat
  on : List GladePkg
  deriving DecidableEq, Repr

/-- A Rootstock property the operator may write (Table 18.14). -/
inductive RsProp | hostAllowance | bankCapSet
  deriving DecidableEq, Repr

/-- A defect found by the factory or at training: kind 1 bole, 2 router, 3 graft channel (R438, R469). -/
structure Defect where
  kind : Nat
  col : Nat
  row : Nat
  deriving DecidableEq, Repr

/-- The commands. Each constructor's docstring names its row and the rule it follows. -/
inductive Instr
  /-- TICK (R28). spent: energy measured in the window that closes, in 1/16 token (R48). -/
  | tick (p : PkgId) (spent : Nat)
  /-- CLOCK_CHANGE_DONE (R14). -/
  | clockChangeDone (p : PkgId) (h : Half)
  /-- TICK_SYNC_EXCHANGE (R30). offset in 1/16 ns, rtt in 1/16 ns, as measured. -/
  | tickSyncExchange (p : PkgId) (offset : Int) (rtt : Nat)
  /-- TICK_HOLDOVER_EXPIRE (R34). -/
  | tickHoldoverExpire (p : PkgId)
  /-- GROVE_HOLDOVER_START (R35): the border package of Stand st has lost its inter-Stand source. -/
  | groveHoldoverStart (st : StandIx)
  /-- GROVE_UNLOCK (R35). -/
  | groveUnlock (st : StandIx)
  /-- TK_PHASE_WRITE (R29). -/
  | tkPhaseWrite (p : PkgId) (time : BitVec 64)
  /-- TK_PERIOD_NEXT_WRITE (R39). -/
  | tkPeriodNextWrite (p : PkgId) (v : BitVec 32)
  /-- TK_SWITCH_TICK_WRITE (R39). -/
  | tkSwitchTickWrite (p : PkgId) (v : BitVec 48)
  /-- PERIOD_SWITCH (R39). -/
  | periodSwitch (p : PkgId)
  /-- TOKEN_REPORT (R47). -/
  | tokenReport (p : PkgId)
  /-- TOKEN_REPORT_MISSING (R53). -/
  | tokenReportMissing (p : PkgId)
  /-- AWARD_ARRIVAL (R51): an award of the Rootstock for a window, as issued. -/
  | awardArrival (p : PkgId) (window tokens : Nat)
  /-- BASE_CHANGE (R52). -/
  | baseChange (p : PkgId)
  /-- INLET_SAMPLE (R55): inlet temperature in thousandths of a degree. -/
  | inletSample (st : StandIx) (milliC : Int)
  /-- THERMAL_HOLD (R56). -/
  | thermalHold (st : StandIx)
  /-- THERMAL_HOLD_RELEASE (R56). -/
  | thermalHoldRelease (st : StandIx)
  /-- GRANDMASTER_SYNC (R37): rate error in parts per billion and wall-clock mapping as exchanged. -/
  | grandmasterSync (ppb mapping : Int)
  /-- BOLE_LOAD (R69). c: what it meets in memory. -/
  | boleLoad (p : PkgId) (k : BoleIx) (loc size : Nat) (c : MemCond)
  /-- BOLE_STORE (R69). -/
  | boleStore (p : PkgId) (k : BoleIx) (loc : Nat) (data : List Byte) (c : MemCond)
  /-- MEMORY_SCRUB_WRITEBACK (R247): word is the 8-byte word's number. -/
  | memoryScrubWriteback (p : PkgId) (m : MemSel) (word : Nat)
  /-- NI_DMA_WRITE (R496). -/
  | niDmaWrite (p : PkgId) (k : BoleIx) (d : Dma)
  /-- NI_DMA_READ (R496). -/
  | niDmaRead (p : PkgId) (k : BoleIx) (d : Dma)
  /-- OVERFLOW_READ_ISSUE (R72). -/
  | overflowReadIssue (p : PkgId) (f : FnIx)
  /-- OVERFLOW_READ_COMPLETION (R76): the completion of the read with this tag. -/
  | overflowReadCompletion (p : PkgId) (tag : Nat) (status : CplStatus) (data : List Byte)
  /-- RT_OVF_BUDGET_WRITE (R73). -/
  | rtOvfBudgetWrite (p : PkgId) (f : FnIx) (view : View) (units : BitVec 16)
  /-- RT_ZERO_START (R450). -/
  | rtZeroStart (p : PkgId) (slot : Fin 16)
  /-- RT_ZERO_DONE (R450). -/
  | rtZeroDone (p : PkgId)
  /-- ARB_REQUEST (R93): the requests presented in one arbiter cycle. -/
  | arbRequest (p : PkgId) (i : ArbIx) (reqs : List ArbReq)
  /-- ARB_GRANT (R87): one arbiter cycle whose decision is an ordinary one. -/
  | arbGrant (p : PkgId) (i : ArbIx)
  /-- ARB_RESERVE_GRANT (R88): one arbiter cycle whose decision is a reserve grant. -/
  | arbReserveGrant (p : PkgId) (i : ArbIx)
  /-- ARB_WITHDRAW (R98). -/
  | arbWithdraw (p : PkgId) (i : ArbIx) (req : Nat) (what : ArbWhat)
  /-- ARB_MASK (R99). -/
  | arbMask (p : PkgId) (i : ArbIx) (req : Nat)
  /-- ARB_MASK_CLEAR (R99). -/
  | arbMaskClear (p : PkgId) (i : ArbIx) (req : Nat)
  /-- AR_CTRL_WRITE (R102). -/
  | arCtrlWrite (p : PkgId) (i : ArbIx) (v : BitVec 32)
  /-- AR_CLASS_WRITE (R102). -/
  | arClassWrite (p : PkgId) (i : ArbIx) (n : Fin 6) (v : BitVec 32)
  /-- MATRIX_STEP (R105). -/
  | matrixStep (p : PkgId) (k : BoleIx) (m : MatStep) (contested : List BankAsk)
  /-- MATRIX_STEP_ISSUE (R105). -/
  | matrixStepIssue (p : PkgId) (k : BoleIx)
  /-- STEAL_EPOCH (R116). -/
  | stealEpoch (p : PkgId) (k : BoleIx)
  /-- MATRIX_STEP_END (R107). -/
  | matrixStepEnd (p : PkgId) (k : BoleIx)
  /-- STORE_MASK (R121). -/
  | storeMask (p : PkgId) (k : BoleIx) (c : CStore)
  /-- STORE_MASK_TRANSPOSED (R121). -/
  | storeMaskTransposed (p : PkgId) (k : BoleIx) (c : CStore)
  /-- STORE_VALUE (R121). -/
  | storeValue (p : PkgId) (k : BoleIx) (c : CStore)
  /-- ROUTER_FORWARD (R137): the flit at the head of one input buffer, with what is found as it is read there and as the
  element behind the output receives it. -/
  | routerForward (p : PkgId) (r : RtrIx) (port : Port) (vn : Fin 4) (vc : Fin 2) (read : HopEvent)
    (arrive : HopEvent := {})
  /-- ONOFF_SIGNAL (R172): the state of one input buffer reaches its sender. -/
  | onoffSignal (p : PkgId) (r : RtrIx) (port : Port) (vn : Fin 4) (vc : Fin 2)
  /-- INJECTION_PUSH (R187). -/
  | injectionPush (p : PkgId) (k : BoleIx) (q : Push)
  /-- PACKET_INJECT (R181). -/
  | packetInject (p : PkgId) (k : BoleIx) (vn : Fin 4)
  /-- WRITE (R167): the oldest gathered packet of this opcode at the NI. The same for the next nine rows. c: as for a
  load; the request's own lane is among the lanes. -/
  | write (p : PkgId) (k : BoleIx) (c : MemCond := {})
  /-- WRITE_SHORT (R166). -/
  | writeShort (p : PkgId) (k : BoleIx)
  /-- READ (R167). -/
  | read (p : PkgId) (k : BoleIx)
  /-- ATOMIC (R168). -/
  | atomic (p : PkgId) (k : BoleIx)
  /-- SIGNAL (R163). -/
  | signal (p : PkgId) (k : BoleIx)
  /-- READ_DATA (R170). -/
  | readData (p : PkgId) (k : BoleIx)
  /-- ACK (R250). -/
  | ack (p : PkgId) (k : BoleIx)
  /-- NACK (R257). -/
  | nack (p : PkgId) (k : BoleIx)
  /-- ATOMIC_RESULT (R164). -/
  | atomicResult (p : PkgId) (k : BoleIx)
  /-- EFT_PACKET (R309). -/
  | eftPacket (p : PkgId) (k : BoleIx)
  /-- FLIT_EXPIRY (R176). -/
  | flitExpiry (p : PkgId)
  /-- REASSEMBLY_RELEASE (R184). -/
  | reassemblyRelease (p : PkgId) (k : BoleIx)
  /-- STREAM_READAHEAD (R203): the injection entry with this number. -/
  | streamReadahead (p : PkgId) (k : BoleIx) (entry : Fin 8192)
  /-- SCHED_FLIT_EJECT (R204): one flit at an ejection entry, with what is found as it is read at the router and as the NI
  receives it. -/
  | schedFlitEject (p : PkgId) (k : BoleIx) (entry : Fin 8192) (read arrive : HopEvent)
  /-- STREAM_RECORD (R204): the record of the stream's occurrence in a window. -/
  | streamRecord (p : PkgId) (k : BoleIx) (stream : Fin 1024) (window : Nat)
  /-- INJECT_STREAM_RECORD (R205). -/
  | injectStreamRecord (p : PkgId) (k : BoleIx) (stream : Fin 1024)
  /-- NI_SREADY_WRITE (R203). -/
  | niSreadyWrite (p : PkgId) (k : BoleIx) (stream : Fin 1024)
  /-- SCHED_ARM (R210). -/
  | schedArm (p : PkgId) (k : BoleIx)
  /-- SCHED_BANK_CHECK (R196). -/
  | schedBankCheck (p : PkgId) (k : BoleIx)
  /-- SCHED_STOP (R211). -/
  | schedStop (p : PkgId) (k : BoleIx)
  /-- SCHED_MODE_WRITE (R211): true for single-bank. -/
  | schedModeWrite (p : PkgId) (k : BoleIx) (single : Bool)
  /-- SCHED_BANK_SWITCH (R210). -/
  | schedBankSwitch (p : PkgId) (k : BoleIx)
  /-- NI_SCHED_BANK_WRITE (R474). -/
  | niSchedBankWrite (p : PkgId) (k : BoleIx) (entry : BitVec 64)
  /-- NI_SCHED_HDR_WRITE (R474): bank B when second. -/
  | niSchedHdrWrite (p : PkgId) (k : BoleIx) (second : Bool) (v : BitVec 64)
  /-- MCAST_ISSUE (R220). -/
  | mcastIssue (p : PkgId) (k : BoleIx) (m : McOp)
  /-- MCAST_REPLICATE (R221): the packet whose flits wait at one input of a router: one flit enters the multicast buffer, with
  what is found as it is read, and each branch sends one. -/
  | mcastReplicate (p : PkgId) (r : RtrIx) (port : Port) (vc : Fin 2) (read : HopEvent := {})
    (branches : List BranchEvent := [])
  /-- MCAST_DELIVER (R223). -/
  | mcastDeliver (p : PkgId) (k : BoleIx)
  /-- MACK_ARRIVAL (R227). -/
  | mackArrival (p : PkgId) (k : BoleIx)
  /-- MCAST_ATTEMPT_RETRY (R227). -/
  | mcastAttemptRetry (p : PkgId) (k : BoleIx) (opnum : Fin 2048)
  /-- BRANCH_STALL (R228). -/
  | branchStall (p : PkgId) (k : BoleIx) (opnum : Fin 2048)
  /-- REDUCE_COMBINE (R232): the contribution that waits at one input of the router of bole k, with what is found as its flits
  are read, in their order. -/
  | reduceCombine (p : PkgId) (k : BoleIx) (port : Port) (reads : List HopEvent := [])
  /-- COMBINE_FLUSH (R239): the entry with this number. -/
  | combineFlush (p : PkgId) (k : BoleIx) (entry : Fin 64)
  /-- COMBINE_EXPIRE (R239). -/
  | combineExpire (p : PkgId) (k : BoleIx) (entry : Fin 64)
  /-- REDUCE_ROOT_LAND (R240). -/
  | reduceRootLand (p : PkgId) (k : BoleIx)
  /-- RESEND_DUE (R254). -/
  | resendDue (p : PkgId) (k : BoleIx) (dstX dstY : Nat)
  /-- REQUEST_UNANSWERED (R256). -/
  | requestUnanswered (p : PkgId) (k : BoleIx) (dstX dstY : Nat)
  /-- DEDUP_EVICT (R262). -/
  | dedupEvict (p : PkgId) (k : BoleIx)
  /-- ALIVE_ENTRY_FREE (R264). -/
  | aliveEntryFree (p : PkgId) (k : BoleIx) (dstX dstY : Nat)
  /-- QUARANTINE_END (R265). -/
  | quarantineEnd (p : PkgId) (k : BoleIx)
  /-- CV_WRITE (R279): a store of width bits at an offset of a unit. -/
  | cvWrite (p : PkgId) (u : CvUnit) (offset width : Nat) (v : BitVec 64)
  /-- CV_START (R277): the engine carries out the entry at the head of the FIFO. The same for the next seven rows. -/
  | cvStart (p : PkgId) (u : CvUnit)
  /-- CV_DIN8 (R275). -/
  | cvDin8 (p : PkgId) (u : CvUnit)
  /-- CV_DIN16 (R276). -/
  | cvDin16 (p : PkgId) (u : CvUnit)
  /-- CV_DIN32 (R276). -/
  | cvDin32 (p : PkgId) (u : CvUnit)
  /-- CV_CLOSE (R277). -/
  | cvClose (p : PkgId) (u : CvUnit)
  /-- CV_PARAM_WRITE (R278). -/
  | cvParamWrite (p : PkgId) (u : CvUnit)
  /-- CV_STATE_WRITE (R278). -/
  | cvStateWrite (p : PkgId) (u : CvUnit)
  /-- CV_ALIVE_WRITE (R278). -/
  | cvAliveWrite (p : PkgId) (u : CvUnit)
  /-- CV_WATCH_EXPIRE (R284). -/
  | cvWatchExpire (p : PkgId) (u : CvUnit)
  /-- SHAPER_FIELD_WRITE (R294). -/
  | shaperFieldWrite (p : PkgId) (site : ShSite) (fld : ShField) (view : View) (v : BitVec 32)
  /-- SH_CTRL_ENABLE (R289). -/
  | shCtrlEnable (p : PkgId) (site : ShSite) (en : Bool)
  /-- WATERMARK_WRITE (R303). -/
  | watermarkWrite (p : PkgId) (w : WmSel) (v : BitVec 32)
  /-- RC_READ (R8). -/
  | rcRead (p : PkgId) (r : RcSel)
  /-- LANE_PUSH (R299). -/
  | lanePush (p : PkgId) (k : BoleIx)
  /-- TW_SEND_WRITE (R313). -/
  | twSendWrite (p : PkgId) (k : BoleIx) (e : Eft)
  /-- TWIG_FORWARD (R308): the eft at the head of one input of the twig router. -/
  | twigForward (p : PkgId) (r : RtrIx) (port : Port) (vc : Fin 2) (ev : HopEvent)
  /-- FLAG_EFT (R314): the oldest FLAG eft that waits at the bole. The same for the next six rows. -/
  | flagEft (p : PkgId) (k : BoleIx)
  /-- INBOX_POP (R473). -/
  | inboxPop (p : PkgId) (k : BoleIx) (i : Fin 16)
  /-- ARRIVE (R323). -/
  | arrive (p : PkgId) (k : BoleIx)
  /-- RELEASE (R323). -/
  | release (p : PkgId) (k : BoleIx)
  /-- RED_UP (R324). -/
  | redUp (p : PkgId) (k : BoleIx)
  /-- RED_DOWN (R324). -/
  | redDown (p : PkgId) (k : BoleIx)
  /-- SCAN_UP (R327). -/
  | scanUp (p : PkgId) (k : BoleIx)
  /-- SCAN_DOWN (R327). -/
  | scanDown (p : PkgId) (k : BoleIx)
  /-- LOSS (R338): a notice for a glade tag, stamped with the loss tick; abort or reset. -/
  | loss (p : PkgId) (tag : Nat) (lossTick : Nat) (isAbort : Bool)
  /-- CL_LAUNCH_WRITE (R320): the 64 bytes of the record. -/
  | clLaunchWrite (p : PkgId) (k : BoleIx) (rec : List Byte)
  /-- LAUNCH_DEQUEUE (R322). -/
  | launchDequeue (p : PkgId) (k : BoleIx) (lane : Fin 8)
  /-- CHUNK_START (R329). -/
  | chunkStart (p : PkgId) (k : BoleIx) (group : Fin 64)
  /-- COLL_SHED (R339). -/
  | collShed (p : PkgId) (k : BoleIx) (group : Fin 64)
  /-- TRIGGER_FIRE (R335): every armed entry that is due fires. -/
  | triggerFire (p : PkgId) (k : BoleIx)
  /-- TRIGGER_ACTION_RUN (R335). -/
  | triggerActionRun (p : PkgId) (k : BoleIx)
  /-- CL_CTR_ADD (R334). -/
  | clCtrAdd (p : PkgId) (k : BoleIx) (ctr : Fin 256) (v : BitVec 32)
  /-- CL_CTR_RESET (R465). -/
  | clCtrReset (p : PkgId) (k : BoleIx) (ctr : Fin 256)
  /-- CL_TRIG_WRITE (R476). -/
  | clTrigWrite (p : PkgId) (k : BoleIx) (t : Fin 512) (v : BitVec 128)
  /-- CL_GROUP_WRITE (R477). -/
  | clGroupWrite (p : PkgId) (k : BoleIx) (g : Fin 64) (v : BitVec 256)
  /-- LINK_FRAME_RECEIVE (R355): uncorrectable says that the FEC could not correct the frame's round; corr and uncorr are the
  codewords that it reports with this frame as corrected and as beyond correction. -/
  | linkFrameReceive (p : PkgId) (l : LinkIx) (fr : LinkFrame) (uncorrectable : Bool) (corr uncorr : Nat)
  /-- REPLAY_REQUEST (R357): a good header with CTL REPLAY and this ESEQ. -/
  | replayRequest (p : PkgId) (l : LinkIx) (eseq : Nat)
  /-- REPLAY_LIMIT (R359). -/
  | replayLimit (p : PkgId) (l : LinkIx)
  /-- HOLD (R363): a HOLD received in a good frame. -/
  | hold (p : PkgId) (l : LinkIx) (vn : Fin 4) (ht : Fin 256) (hid : Fin 4)
  /-- HOLD_EXPIRE (R363). -/
  | holdExpire (p : PkgId) (l : LinkIx) (vn : Fin 4)
  /-- HOLD_OVERRUN (R366). -/
  | holdOverrun (p : PkgId) (l : LinkIx) (vn : Fin 4)
  /-- FAST_RETRAIN (R370). -/
  | fastRetrain (p : PkgId) (l : LinkIx)
  /-- FULL_TRAIN (R370). -/
  | fullTrain (p : PkgId) (l : LinkIx)
  /-- LINK_DOWN (R370). -/
  | linkDown (p : PkgId) (l : LinkIx)
  /-- LINK_DETECT (R368). -/
  | linkDetect (p : PkgId) (l : LinkIx)
  /-- LINK_EQUALISE (R368). -/
  | linkEqualise (p : PkgId) (l : LinkIx)
  /-- LINK_LOCK (R368). -/
  | linkLock (p : PkgId) (l : LinkIx)
  /-- LINK_IDENT (R134). -/
  | linkIdent (p : PkgId) (l : LinkIx) (id : Ident)
  /-- LINK_MEASURE (R369): LK_RTT and the probe round trip, in CKM cycles. -/
  | linkMeasure (p : PkgId) (l : LinkIx) (rtt probe : Nat)
  /-- LINK_ACTIVE (R371). -/
  | linkActive (p : PkgId) (l : LinkIx)
  /-- LK_RETRAIN (R370). -/
  | lkRetrain (p : PkgId) (l : LinkIx)
  /-- LK_FULLTRAIN (R370). -/
  | lkFulltrain (p : PkgId) (l : LinkIx)
  /-- LK_DISABLE (R455). -/
  | lkDisable (p : PkgId) (l : LinkIx) (dis : Bool)
  /-- LK_HOLD_TX (R367). -/
  | lkHoldTx (p : PkgId) (l : LinkIx) (vn : Fin 4) (ht : Fin 256)
  /-- TWIG_LANE_FRAME (R373). -/
  | twigLaneFrame (p : PkgId) (l : LinkIx) (fr : LaneFrame)
  /-- FN_NUDGE (R391). -/
  | fnNudge (p : PkgId) (f : FnIx) (v : BitVec 32)
  /-- DOORBELL_RECORD (R392): the record that a ring's read returned. -/
  | doorbellRecord (p : PkgId) (f : FnIx) (r : RingIx) (tail ntail : BitVec 32)
  /-- DESCRIPTOR_FETCH (R397): the descriptors that a fetch returned, 64 bytes each. -/
  | descriptorFetch (p : PkgId) (f : FnIx) (r : RingIx) (ds : List (List Byte))
  /-- NOP (R394): descriptor n of the ring, in execution. The same for the next ten rows. -/
  | nop (p : PkgId) (f : FnIx) (r : RingIx) (n : BitVec 32)
  /-- COPY_IN (R399): its host reads have ended. The same for SCHED_LOAD, COLL_GROUP and COLL_LAUNCH. -/
  | copyIn (p : PkgId) (f : FnIx) (r : RingIx) (n : BitVec 32)
  /-- COPY_OUT (R407). -/
  | copyOut (p : PkgId) (f : FnIx) (r : RingIx) (n : BitVec 32)
  /-- FILL (R394). -/
  | fill (p : PkgId) (f : FnIx) (r : RingIx) (n : BitVec 32)
  /-- SCHED_LOAD (R478). -/
  | schedLoad (p : PkgId) (f : FnIx) (r : RingIx) (n : BitVec 32)
  /-- NI_WRITE (R395). -/
  | niWrite (p : PkgId) (f : FnIx) (r : RingIx) (n : BitVec 32)
  /-- COLL_GROUP (R396). -/
  | collGroup (p : PkgId) (f : FnIx) (r : RingIx) (n : BitVec 32)
  /-- COLL_LAUNCH (R396). -/
  | collLaunch (p : PkgId) (f : FnIx) (r : RingIx) (n : BitVec 32)
  /-- BOLE_RUN_START (R394). -/
  | boleRunStart (p : PkgId) (f : FnIx) (r : RingIx) (n : BitVec 32)
  /-- BOLE_RUN_STOP (R394). -/
  | boleRunStop (p : PkgId) (f : FnIx) (r : RingIx) (n : BitVec 32)
  /-- WAIT (R394). -/
  | wait (p : PkgId) (f : FnIx) (r : RingIx) (n : BitVec 32)
  /-- ABORT (R408). -/
  | abort (p : PkgId) (f : FnIx) (r : RingIx) (n : BitVec 32)
  /-- DESCRIPTOR_COMPLETE (R398): the oldest ended descriptor of the ring gets its entry. -/
  | descriptorComplete (p : PkgId) (f : FnIx) (r : RingIx)
  /-- HOST_READ_COMPLETION (R406): the completion of the read with this tag. -/
  | hostReadCompletion (p : PkgId) (tag : Nat) (status : CplStatus) (data : List Byte)
  /-- HOST_READ_TIMEOUT (R406). -/
  | hostReadTimeout (p : PkgId) (tag : Nat)
  /-- FN_ABORT_GLADE (R427). -/
  | fnAbortGlade (p : PkgId) (f : FnIx)
  /-- RT_VF_ABORT (R469): bit v - 1 names VF v. -/
  | rtVfAbort (p : PkgId) (vfs : BitVec 16)
  /-- FN_ABORT_RINGS (R408). -/
  | fnAbortRings (p : PkgId) (f : FnIx)
  /-- RING_RESET (R409). -/
  | ringReset (p : PkgId) (f : FnIx) (r : RingIx)
  /-- RING_RESET_READ_DONE (R409). -/
  | ringResetReadDone (p : PkgId) (f : FnIx) (r : RingIx) (tail ntail : BitVec 32)
  /-- RING_RESET_READ_TIMEOUT (R429): the read is late, or has failed. -/
  | ringResetReadTimeout (p : PkgId) (f : FnIx) (r : RingIx) (failed : Bool := false)
  /-- ABORT_COLLECTIVES_END (R428). -/
  | abortCollectivesEnd (p : PkgId) (f : FnIx)
  /-- ABORT_ESCALATE (R431): bit k of unconfirmed is 1 when bole k did not confirm step 2. -/
  | abortEscalate (p : PkgId) (f : FnIx) (unconfirmed : BitVec 64)
  /-- RING_ENABLE (R388): a write of FN_RING_CTRL. -/
  | ringEnable (p : PkgId) (f : FnIx) (r : RingIx) (v : BitVec 32)
  /-- FN_SETUP_LOCK (R8). -/
  | fnSetupLock (p : PkgId) (f : FnIx)
  /-- RT_SETUP_LOCK (R8). -/
  | rtSetupLock (p : PkgId)
  /-- BME_CLEAR (R422). -/
  | bmeClear (p : PkgId) (f : FnIx)
  /-- BME_SET (R423). -/
  | bmeSet (p : PkgId) (f : FnIx)
  /-- D3HOT_ENTRY (R380). -/
  | d3hotEntry (p : PkgId) (f : FnIx)
  /-- FN_INT_ACK (R413). -/
  | fnIntAck (p : PkgId) (f : FnIx)
  /-- NI_HOST_SIGNAL (R411). -/
  | niHostSignal (p : PkgId) (k : BoleIx)
  /-- PACKAGE_COLD_RESET (R419). -/
  | packageColdReset (p : PkgId)
  /-- PACKAGE_WARM_RESET (R419). -/
  | packageWarmReset (p : PkgId)
  /-- CONVENTIONAL_RESET (R419). -/
  | conventionalReset (p : PkgId)
  /-- FUNCTION_LEVEL_RESET (R424). -/
  | functionLevelReset (p : PkgId) (f : FnIx)
  /-- FLR_ESCALATE (R425). -/
  | flrEscalate (p : PkgId) (f : FnIx) (unconfirmed : BitVec 64)
  /-- BOLE_RESET (R419). -/
  | boleReset (p : PkgId) (k : BoleIx)
  /-- SLED_POWER_ON (R435). -/
  | sledPowerOn (st : StandIx) (sled : Fin 16)
  /-- PACKAGE_READY (R435): bit c of badGraft is 1 when graft channel c failed training (R440). -/
  | packageReady (p : PkgId) (badGraft : BitVec 9)
  /-- PACKAGE_FAILED (R437). -/
  | packageFailed (p : PkgId)
  /-- FIRST_TOKEN_TICK (R436). -/
  | firstTokenTick (p : PkgId)
  /-- GLADES_CREATE (R447). -/
  | gladesCreate (st : StandIx) (gs : List GladeSpec)
  /-- GLADES_REMOVE (R447). -/
  | gladesRemove (st : StandIx) (tags : List Nat)
  /-- GLADE_COMMIT (R448). -/
  | gladeCommit (p : PkgId)
  /-- GL_DISCARD (R471). -/
  | glDiscard (p : PkgId)
  /-- ROOTSTOCK_RESTART (R451). -/
  | rootstockRestart (st : StandIx)
  /-- SERVICE_SLED (R455). -/
  | serviceSled (st : StandIx) (sled : Fin 16)
  /-- RETURN_SLED (R457). -/
  | returnSled (st : StandIx) (sled : Fin 16)
  /-- JOIN_GROVE (R458): the Grove becomes w by h Stands. -/
  | joinGrove (w h : Nat)
  /-- REDFISH_PATCH (R479). -/
  | redfishPatch (st : StandIx) (prop : RsProp) (v : Nat)
  /-- RT_FIELD_DEFECT_WRITE (R469). -/
  | rtFieldDefectWrite (p : PkgId) (i : Fin 32) (v : BitVec 32)
  /-- RT_POSITION_WRITE (R23). -/
  | rtPositionWrite (p : PkgId) (v : BitVec 32)
  /-- HALF_READ_LATCH (R461): a read of the low half of a 64-bit RO register, or a read of another size there. -/
  | halfReadLatch (p : PkgId) (path : Path) (offset : Nat) (size : Nat := 4)
  /-- REGISTER_WRITE (R8): the bytes written from an offset on. -/
  | registerWrite (p : PkgId) (path : Path) (offset : Nat) (data : List Byte)
  /-- LINK_FRAME_SEND (R357). -/
  | linkFrameSend (p : PkgId) (l : LinkIx)
  /-- TWIG_LANE_FRAME_SEND (R373). -/
  | twigLaneFrameSend (p : PkgId) (l : LinkIx)
  /-- SCHEDULED_FLIT_SEND (R190): the slot cycle of an active entry of the router of bole k. ev is found at the router's input,
  skip at the live router of a skipped row that the hop out of it crosses. -/
  | scheduledFlitSend (p : PkgId) (k : BoleIx) (entry : Fin 8192) (ev : HopEvent) (skip : HopEvent := {})
  /-- PCIE_LINK_UP (R377). -/
  | pcieLinkUp (p : PkgId) (width speed : Nat)
  deriving DecidableEq, Repr

end Sys2Proof
end

