-- ==== Sys2Proof/Config.lean ====
section
/-! DEFINITION. What the spec leaves open: free values, with no body, so that nothing can be proved of them (log 5). -/

namespace Sys2Proof

/-- Rate correction, in parts per billion, that an exchange leads to (R30, R36: bounded only while slewing). -/
opaque Config.syncRate : Nat → Int

/-- What one multiply-accumulate of the matrix array gives: partial, A element, B element, DTYPE code (R108). -/
opaque Config.fmac : BitVec 32 → Nat → Nat → Nat → BitVec 32

/-- What adding a partial into an element of the output tile gives (R115). -/
opaque Config.facc : BitVec 32 → BitVec 32 → BitVec 32

/-- What rounding an FP32 element to a DTYPE gives in a compressing store (R121). -/
opaque Config.toDtype : BitVec 32 → Nat → Nat

/-- Answer status recorded for an ALIVE that a new entry or an order reset accounts for (R259). -/
opaque Config.doneCode : Nat → Nat

/-- Old value answered to a duplicate fetching ATOMIC whose FETCH slot is gone (R260). -/
opaque Config.lostFetch : Nat → BitVec 64

/-- The NaN that an ADD_F32 atomic stores when its sum is not a number (Table 7.4 names none). -/
opaque Config.atomicNan : Nat → BitVec 32

/-- Content of a multicast's flag where no collective gives its layout (R223). -/
opaque Config.mcFlag : Nat → BitVec 64

/-- Number of the chunk counter that a collective's pieces add to, by group and chunk (R330). -/
opaque Config.chunkCtr : Nat → Nat → Nat

/-- What the 64 bytes of an action descriptor say for an ACT code: the spec gives no layout (R335). -/
opaque Config.trigDesc : Nat → List Byte → TrigDesc

/-- 'The old bytes or the new bytes', granule by granule, by event and granule number: true for the new ones (R399, R409,
R422). -/
opaque Config.newGranule : Nat → Nat → Bool

/-- Whether the PCIe transmitter has credit for the request due at the Root DMA port (R91). -/
opaque Config.pcieCredit : Nat → Bool

/-- First 8 bytes of a descriptor whose fetch has failed: its entry repeats an opcode and a cookie that never arrived
(R398, R406). -/
opaque Config.lostDesc : Nat → Nat

/-- Value bytes of an unchecked bitmap-block step whose value area is empty, by value offset: the address of R119 has no
meaning there. -/
opaque Config.noArea : Nat → Byte

/-- Currital's PCI-SIG Vendor ID (R379): the spec does not give the number. -/
opaque Config.vendorId : BitVec 16

end Sys2Proof
end

