-- ==== Sys2Proof/Machine/StPower.lean ====
section
/-! DEFINITION. State of the tick block, the token block and the Rootstock (02, 17, 18 Tables 18.6 and 18.14).
Every default value of a field is its value at reset. -/

namespace Sys2Proof.Machine

/-- A counter that is snapshot at every tick (R42, R462). -/
structure Cnt where
  live : Nat := 0
  snap : Nat := 0
  deriving DecidableEq, Repr

/-- Tick block (Table 18.6). TK_TIME is timeBase plus what CKT has counted since State.now was timeAt; timeFrac is what the
rate correction has left below one unit, in parts per billion of it. Times count on past 64 bits and read modulo 2^64. -/
structure TickBlk where
  timeBase : Nat := 0
  timeFrac : Nat := 0
  timeAt : Nat := 0
  /-- Rate correction in force, parts per billion. -/
  rate : Int := 0
  tickNum : Nat := 0
  /-- TK_TIME of the last tick. -/
  tickTime : Nat := 0
  /-- State.now at which the window stood at its cycle winCyc: cycle 0 at a tick (R40). -/
  winStart : Nat := 0
  winCyc : Nat := 0
  /-- A tick of the period in force and its TK_TIME: what TK_PHASE counts ticks from (R29, log 29). -/
  eraTick : Nat := 0
  eraTime : Nat := 0
  locked : Bool := false
  holdover : Bool := false
  unlocked : Bool := false
  lost : Bool := false
  groveHoldover : Bool := false
  groveUnlocked : Bool := false
  switchRefused : Bool := false
  offset : Int := 0
  rtt : Nat := 0
  period : Nat := 20
  periodNext : Nat := 20
  switchTick : Nat := 0
  /-- LOCKED has been 1 since the last package reset (R29). -/
  everLocked : Bool := false
  /-- Consecutive exchanges within 1.0 ns (R30). -/
  inLock : Nat := 0
  /-- Consecutive exchanges outside 2.0 ns (R490). -/
  outLock : Nat := 0
  /-- Tick periods without a valid exchange (R34, R35). -/
  noExch : Nat := 0
  exchSeen : Bool := false
  /-- The off-package scheduled plane is stopped until the first tick after lock (R34, R36). -/
  offHeld : Bool := false
  /-- The inter-Stand scheduled plane is stopped until the first tick after the border locks again (R35). -/
  interHeld : Bool := false
  /-- By link: one more than TK_TIME at the first bit of the frame in which a tick-sync eft last left, and last arrived
  (R374). -/
  syncOut : Tab Nat := []
  syncIn : Tab Nat := []
  /-- LOST in some cycle of the open window; and the three as they stood in the window before it (R207). -/
  lostWin : Bool := false
  offLast : Bool := false
  interLast : Bool := false
  lostLast : Bool := false
  deriving DecidableEq, Repr

/-- The closed books of one window as they wait to be reported (R46, R47, R50). Figures in 1/16 token. -/
structure Report where
  window : Nat
  base : Nat
  award : Nat
  bankIn : Nat
  spent : Nat
  bankOut : Nat
  returned : Nat
  request : Nat
  deriving DecidableEq, Repr

/-- Token block (Table 18.6). Figures in 1/16 token. -/
structure TokenBlk where
  step : Nat := 0
  maxStep : Nat := 14
  burstEn : Bool := true
  base : Nat := 0
  cap : Nat := 0
  award : Nat := 0
  bank : Nat := 0
  overspend : Nat := 0
  baseNext : Nat := 0
  capNext : Nat := 0
  nextTick : Nat := 0
  firstTick : Nat := 0
  /-- Bring-up power state (R436). -/
  bringup : Bool := true
  /-- Awards that have arrived for windows that have not begun (R51). -/
  awards : Tab Nat := []
  /-- Awards that came after their window had begun: reported as returned (R51). -/
  lateAward : Nat := 0
  report : Option Report := none
  /-- The window runs at step 0 because the last one overspent (R46). -/
  floorWin : Bool := false
  /-- Steps in force on CKW and CKE, and the change in progress (R14). -/
  ckw : Nat := 0
  cke : Nat := 0
  ckwNext : Option Nat := none
  ckeNext : Option Nat := none
  deriving DecidableEq, Repr

/-- Journal records (Table 17.2). -/
inductive JRec
  | config (period hostAllowance bankCapSet w h : Nat)
  | defect (pkg : Nat) (d : Defect)
  | begin (gen : Nat) (removed : List Nat) (created : List GladeSpec)
  | staged (gen : Nat)
  | commit (gen tick : Nat)
  | done (gen : Nat)
  | rollback (gen : Nat)
  | service (sled : Nat) (out : Bool)
  deriving DecidableEq, Repr

/-- A replant: what it removes and creates, and how far it has come (Table 17.4). step is the number of the last
step begun: 2 aborts under way, 5 committed by the journal. -/
structure Replant where
  gen : Nat
  removed : List Nat
  created : List GladeSpec
  step : Nat
  commitTick : Nat
  /-- Sled that is powered down once the replant is done (R455), as 16 * Stand + sled. -/
  sled : Option Nat := none
  /-- Packages and VFs whose zeroing is complete (R450). -/
  zeroed : List (Nat × Nat) := []
  deriving DecidableEq, Repr

/-- Redfish alarms and events the Rootstock sends (R433). -/
inductive Alarm
  | inletOver
  | packageFailed (pkg : Nat)
  | miscabled (pkg link : Nat)
  | abortEscalated (pkg fn : Nat)
  | tokenReportMissing (pkg window : Nat)
  | configShort (tokens : Nat)
  | gladesRemoved (tags : List Nat)
  | refused (why : Nat)
  deriving DecidableEq, Repr

/-- Overflow limits of a package that a Rootstock reports through Redfish and to Sapling after a period change (R74). -/
structure OvfReport where
  pkg : Nat
  ceil : Nat
  budgets : List Nat
  deriving DecidableEq, Repr

/-- A request that waits for the open replant's end (R447). -/
inductive ReplantReq
  | create (gs : List GladeSpec)
  | remove (tags : List Nat)
  | service (sled : Nat)
  /-- Take the positions of a package's new defects out of service (R439). -/
  | defects (pkg : Nat)
  deriving DecidableEq, Repr

/-- A loss notice that a Rootstock has sent (R338). -/
structure Notice where
  tag : Nat
  tick : Nat
  isAbort : Bool
  deriving DecidableEq, Repr

/-- An award that the Rootstock has issued (R50, R51): package number, window, tokens in 1/16; sent once it has arrived. -/
structure Award where
  pkg : Nat
  window : Nat
  tokens : Nat
  sent : Bool := false
  deriving DecidableEq, Repr

/-- One window of a package in the Rootstock's books (R47, R50, R53). -/
structure RsReport where
  pkg : Nat
  window : Nat
  request : Nat
  spent : Nat
  bank : Nat
  returned : Nat
  missing : Bool
  deriving DecidableEq, Repr

/-- One Rootstock (Table 18.14 and chapter 17). -/
structure Rootstock where
  /-- RS_ID.SERIAL: the spec gives no value (log 1). -/
  serial : Nat := 0
  stand : Nat := 0
  w : Nat := 1
  h : Nat := 1
  lead : Bool := true
  hostAllowance : Nat := 0
  bankCapSet : Nat := 256
  inlet : Nat := 0
  draw : Nat := 0
  issue : Nat := 0
  gen : Nat := 0
  thermalHold : Bool := false
  replanting : Bool := false
  inletOver : Bool := false
  timeHoldover : Bool := false
  /-- Tick period in force as the Rootstock holds it. -/
  period : Nat := 20
  base : Nat := 0
  cap : Nat := 0
  pool : Nat := 0
  /-- Fan figure in watts; 900 from boot (Table 17.1). -/
  fans : Nat := 900
  /-- Consecutive seconds above 37 degrees (R56). -/
  above37 : Nat := 0
  reports : List RsReport := []
  /-- One more than the latest window whose pool has been divided; 0 for none. -/
  closed : Nat := 0
  issued : List Award := []
  /-- First token tick given to each package, 0 for none: from that window on it owes a report (R443). -/
  granted : Tab Nat := []
  /-- Bank that each package's last books carried out (R47, R53). -/
  banks : Tab Nat := []
  /-- Pool before the last change of the tick period, by which awards are recomputed (R39). -/
  poolWas : Nat := 0
  /-- State.now at the Grove epoch (R29). -/
  epoch : Option Nat := none
  /-- State.now at which the Stand lost its inter-Stand time (R35). -/
  lostAt : Option Nat := none
  journal : List JRec := []
  replant : Option Replant := none
  waiting : List ReplantReq := []
  glades : List GladeSpec := []
  /-- Bit s: sled s has been returned, and not every link of it has been admitted since (R457). -/
  sledBack : BitVec 16 := 0
  /-- Bit s: compute sled s powered. -/
  sledOn : BitVec 16 := 0
  /-- Bit s: compute sled s taken out for service (R455). -/
  sledOut : BitVec 16 := 0
  alarms : List Alarm := []
  ovfReports : List OvfReport := []
  notices : List Notice := []
  /-- Rate error and wall-clock mapping taken from the grandmaster (R37). -/
  rate : Int := 0
  mapping : Int := 0
  deriving DecidableEq, Repr

end Sys2Proof.Machine
end

