-- ==== Sys2Proof/Machine/StMem.lean ====
section
/-! DEFINITION. State of leaf memory, heartwood, age arbiters, sampled queues and shapers (03, 04, 12). -/

namespace Sys2Proof.Machine

/-- A memory with its poison bits and the words whose stored code is wrong (R247): ecc lists 8-byte words, 1 for a
single-bit error, 2 for an error that cannot be corrected. poison lists granule numbers, rising. -/
structure Mem where
  bytes : Memory := []
  poison : List Nat := []
  ecc : Tab Nat := []
  deriving DecidableEq, Repr

/-- Leaf memory with the turn of each bank (R59): a listed bank's turn is with the pipeline side. laneLast is the NI lane that
each bank served last: lane 7 at reset, so that lane 0 comes first (DESIGN CHOICE, log 1). -/
structure Leaf where
  mem : Mem := {}
  pipeTurn : List Nat := []
  laneLast : Tab Nat := []
  deriving DecidableEq, Repr

/-- Per-queue samples (Table 18.3, R304). -/
structure Smp where
  dmin : Nat := 0
  dmax : Nat := 0
  dlyMax : Nat := 0
  dlySum : Nat := 0
  nout : Nat := 0
  deriving DecidableEq, Repr

/-- Watermark of a queue (Table 12.4). -/
structure Wm where
  hi : Nat := 0
  lo : Nat := 0
  level : Bool := false
  event : Bool := false
  ie : Bool := false
  count : Nat := 0
  deriving DecidableEq, Repr

/-- A sampled queue as its present cycle began (R186, R188, R302). -/
structure QStart where
  cyc : Nat
  depth : Nat
  wm : Wm
  dmin : Nat
  dmax : Nat
  notEmpty : Nat
  notFull : Nat
  deriving DecidableEq, Repr

/-- A sampled queue's watermark, its samples of the open window and the snapshot; its depth, and how often its not-empty and
not-full events have fired (R188). -/
structure QMon where
  wm : Wm := {}
  live : Smp := {}
  snap : Smp := {}
  last : Nat := 0
  notEmpty : Nat := 0
  notFull : Nat := 0
  start : Option QStart := none
  /-- Cycle of the last push, refused ones counted: a pop comes before it in its cycle, or in a later one (R186). -/
  pushCyc : Option Nat := none
  deriving DecidableEq, Repr

/-- An entry of a pending queue, or the transfer that holds the port (R85, R86, R97). -/
structure ArbEntry where
  req : Nat
  len : Nat
  lock : Bool
  isWrite : Bool
  cls : Nat
  stamp : Nat
  done : Nat := 0
  ctx : Bool := false
  reserve : Bool := false
  /-- A preempted transfer that was queued again (R85). -/
  loser : Bool := false
  /-- State.now at acceptance, or at the re-queue of a loser (R304). -/
  since : Nat := 0
  deriving DecidableEq, Repr

structure ArbCur where
  e : ArbEntry
  lockLeft : Nat
  ownerDead : Bool := false
  deriving DecidableEq, Repr

inductive ArbPlan
  | idle
  | keep
  | start (e : ArbEntry) (loser : Option ArbEntry)
  deriving DecidableEq, Repr

/-- One age arbiter (chapter 04, Behavioural model). cls lists classes that AR_CLASS writes have set. -/
structure Arb where
  n : Nat := 8
  mode : Nat := 0
  cls : Tab Nat := []
  q : List ArbEntry := []
  cur : Option ArbCur := none
  plan : ArbPlan := .idle
  cnt : Nat := 0
  seq : Nat := 0
  ctxFree : Nat := 16
  masked : List Nat := []
  /-- A withdrawal of the transfer that holds the port has arrived (R98). -/
  withdraw : Bool := false
  /-- Step 1 of the present cycle has been carried out (R90), and the number of that cycle. -/
  driven : Bool := false
  cyc : Nat := 0
  /-- Requests refused and still presented (R93). -/
  refused : List ArbReq := []
  /-- Index after the requester admitted last (R93). -/
  rot : Nat := 0
  qmon : QMon := {}
  cntLive : Tab Nat := []
  cntSnap : Tab Nat := []
  smpTick : Nat := 0
  deriving DecidableEq, Repr

/-- A service or subscriber level's rates and depths. Depths in flits, rates in 1/65,536 flit per CKM cycle. -/
structure Rates where
  cir : Nat := 65536
  pir : Nat := 65536
  cbs : Nat := 4095
  pbs : Nat := 4095
  deriving DecidableEq, Repr

/-- Contents of a two-bucket level in 1/65,536 flit (R290, R293). -/
structure Bucket where
  c : Nat := 0
  p : Nat := 0
  deriving DecidableEq, Repr

structure Svc where
  wheel : Bool := false
  rates : Rates := {}
  spacing : Nat := 64
  bucket : Bucket := {}
  /-- NEXT in 1/16 CKM cycle (R295). -/
  next : Nat := 0
  /-- Green, yellow and red-wait counters (R306). -/
  green : Cnt := {}
  yellow : Cnt := {}
  redwait : Cnt := {}
  deriving DecidableEq, Repr

/-- A shaper (Table 18.10, R287 to R306). Bucket contents are those at State.now = asOf. -/
structure Shaper where
  en : Bool := false
  badCfg : Bool := false
  laneW : Nat := 0x11111111
  sub : Bucket := {}
  svc0 : Svc := {}
  svc1 : Svc := {}
  asOf : Nat := 0
  /-- Kept field writes that wait for the tick (R294): the configuration they amount to. -/
  next0 : Option (Bool × Rates × Nat) := none
  next1 : Option (Bool × Rates × Nat) := none
  /-- Subscriber rates in force until the next tick, where a write of the committed copy waits for it (R294). -/
  subOld : Option Rates := none
  smpTick : Nat := 0
  deriving DecidableEq, Repr

/-- What an element that checks flits holds of one channel (R241 to R244): the IDX after the last flit of the open packet that
it has passed on, 0 with no packet open; that packet's AGE; and that a payload error has been found in it (R160). -/
structure Chk where
  idx : Nat := 0
  age : Nat := 0
  poison : Bool := false
  deriving DecidableEq, Repr

end Sys2Proof.Machine
end

