-- ==== Sys2Proof/Machine/Mem.lean ====
section
/-! DEFINITION. Operations on leaf memory and heartwood: bytes in canonical form, poison bits and stored codes (03, 10). -/

namespace Sys2Proof.Machine

/-- The byte at an address; an address that is not listed reads 0 (Table 16.8: a cold reset clears; log 2). -/
def Memory.read : Memory → Nat → Byte
  | [], _ => 0
  | (k, v) :: m, a => if a = k then v else Memory.read m a

/-- Write one byte, keeping addresses rising and no listed zero. -/
def Memory.write : Memory → Nat → Byte → Memory
  | [], a, b => if b = 0 then [] else [(a, b)]
  | (k, v) :: m, a, b =>
    if a < k then (if b = 0 then (k, v) :: m else (a, b) :: (k, v) :: m)
    else if a = k then (if b = 0 then m else (k, b) :: m)
    else (k, v) :: Memory.write m a b

/-- The canonical form: addresses strictly rising, no zero listed. -/
def Memory.wf : Memory → Bool
  | [] => true
  | [(_, v)] => v != 0
  | (k, v) :: (k', v') :: m => v != 0 && decide (k < k') && Memory.wf ((k', v') :: m)

def Memory.readN (m : Memory) (a n : Nat) : List Byte := (List.range n).map fun i => Memory.read m (a + i)

def Memory.writeN (m : Memory) (a : Nat) : List Byte → Memory
  | [] => m
  | b :: bs => Memory.writeN (Memory.write m a b) (a + 1) bs

/-- Insert into a rising list of numbers. -/
def insertNat : List Nat → Nat → List Nat
  | [], n => [n]
  | k :: l, n => if n < k then n :: k :: l else if n = k then k :: l else k :: insertNat l n

/-- Little-endian number of a byte list (R5). -/
def leNat : List Byte → Nat
  | [] => 0
  | b :: bs => b.toNat + 256 * leNat bs

/-- The n little-endian bytes of a number. -/
def leBytes (n v : Nat) : List Byte := (List.range n).map fun i => BitVec.ofNat 8 (v / 256 ^ i)

/-- Granule numbers that [a, a + n) touches, for granules of g bytes. -/
def granules (g a n : Nat) : List Nat :=
  if n = 0 then [] else (List.range ((a + n - 1) / g + 1 - a / g)).map fun i => a / g + i

/-- Set a granule's poison bit; the flag says that it changed from 0 to 1. -/
def Mem.setPoison (m : Mem) (gr : Nat) : Mem × Bool :=
  if m.poison.contains gr then (m, false) else ({ m with poison := insertNat m.poison gr }, true)

def Mem.clearPoison (m : Mem) (gr : Nat) : Mem := { m with poison := m.poison.filter (· != gr) }

/-- What an access reports to the counters of Table 10.5: words corrected, and granules whose poison bit became 1. -/
structure MemEv where
  corr : Nat := 0
  pois : Nat := 0
  deriving DecidableEq, Repr

def MemEv.add (x y : MemEv) : MemEv := { corr := x.corr + y.corr, pois := x.pois + y.pois }

/-- The words of a granule of g bytes. -/
def wordsOf (g gr : Nat) : List Nat := (List.range (g / 8)).map fun i => gr * (g / 8) + i

/-- Check every word of one granule as a read does (R247). Corrected words are written back by
MEMORY_SCRUB_WRITEBACK. -/
def Mem.checkGran (g : Nat) (m : Mem) (gr : Nat) : Mem × MemEv :=
  let ws := wordsOf g gr
  let corr := (ws.filter fun w => m.ecc.get 0 w == 1).length
  if ws.any fun w => m.ecc.get 0 w == 2 then
    let (m', c) := m.setPoison gr
    (m', { corr := corr, pois := if c then 1 else 0 })
  else (m, { corr := corr })

def Mem.checkAll (g : Nat) (m : Mem) : List Nat → Mem × MemEv
  | [] => (m, {})
  | gr :: grs =>
    let (m1, e1) := Mem.checkGran g m gr
    let (m2, e2) := Mem.checkAll g m1 grs
    (m2, e1.add e2)

/-- Errors come up in stored words of the granules of [a, a + n); one that cannot be corrected stays so. -/
def Mem.upset (g : Nat) (m : Mem) (a n : Nat) (us : List (Nat × Bool)) : Mem :=
  us.foldl (fun m u =>
    if (granules g a n).contains (u.1 / (g / 8)) then
      { m with ecc := m.ecc.set u.1 (max (m.ecc.get 0 u.1) (if u.2 then 2 else 1)) }
    else m) m

/-- Does any granule of [a, a + n) hold poison? -/
def Mem.poisoned (g : Nat) (m : Mem) (a n : Nat) : Bool := (granules g a n).any fun gr => m.poison.contains gr

/-- A read of n bytes: the bytes, whether a granule touched is poisoned, the checks' effect (R247). -/
def Mem.readAcc (g : Nat) (m : Mem) (a n : Nat) : List Byte × Bool × Mem × MemEv :=
  let (m', e) := m.checkAll g (granules g a n)
  (Memory.readN m'.bytes a n, m'.poisoned g a n, m', e)

/-- The effect of a write of [a, a + n) on the codes and the poison bit of one granule (R247). -/
def Mem.mergeGran (g : Nat) (m : Mem) (a n gr : Nat) : Mem × MemEv :=
  let ws := wordsOf g gr
  let covered (w : Nat) : Bool := decide (a ≤ 8 * w ∧ 8 * w + 8 ≤ a + n)
  if a ≤ gr * g ∧ gr * g + g ≤ a + n then
    (({ m with ecc := m.ecc.filter fun e => !ws.contains e.1 } : Mem).clearPoison gr, {})
  else
    let corr := (ws.filter fun w => m.ecc.get 0 w == 1).length
    let bad := ws.any fun w => m.ecc.get 0 w == 2 && !covered w
    let m1 : Mem := { m with ecc := m.ecc.filter fun e => !(ws.contains e.1 && (covered e.1 || e.2 == 1)) }
    if bad then
      let (m2, c) := m1.setPoison gr
      (m2, { corr := corr, pois := if c then 1 else 0 })
    else (m1, { corr := corr })

def Mem.mergeAll (g : Nat) (m : Mem) (a n : Nat) : List Nat → Mem × MemEv
  | [] => (m, {})
  | gr :: grs =>
    let (m1, e1) := Mem.mergeGran g m a n gr
    let (m2, e2) := Mem.mergeAll g m1 a n grs
    (m2, e1.add e2)

/-- A write of bytes at a: the bytes land, codes and poison by R247. -/
def Mem.writeAcc (g : Nat) (m : Mem) (a : Nat) (bs : List Byte) : Mem × MemEv :=
  let (m1, e) := m.mergeAll g a bs.length (granules g a bs.length)
  ({ m1 with bytes := Memory.writeN m1.bytes a bs }, e)

/-- Zero [a, a + n): every listed byte in it goes, its granules get fresh codes and clear bits. -/
def Mem.zeroRange (g : Nat) (m : Mem) (a n : Nat) : Mem :=
  { bytes := m.bytes.filter fun c => !(decide (a ≤ c.1) && decide (c.1 < a + n))
    poison := m.poison.filter fun gr => !(decide (a ≤ gr * g) && decide (gr * g < a + n))
    ecc := m.ecc.filter fun e => !(decide (a ≤ 8 * e.1) && decide (8 * e.1 < a + n)) }

/-- Bank and row of a leaf address (R58). -/
def leafBank (a : Nat) : Nat := bits a 10 6 ^^^ bits a 15 11
def leafRow (a : Nat) : Nat := bits a 22 11

/-- Slice and row of a heartwood offset (R62). -/
def heartSlice (h : Nat) : Nat :=
  bits h 10 7 ^^^ bits h 14 11 ^^^ bits h 18 15 ^^^ bits h 22 19 ^^^ bits h 25 23
def heartRow (h : Nat) : Nat := bits h 25 11

/-- Banks that a leaf access of n bytes touches. -/
def leafBanks (a n : Nat) : List Nat := (granules 64 a n).map fun g => leafBank (64 * g)

/-- Whom a bank serves in a cycle: the pipeline side, or an NI lane. -/
inductive BankWin | none | pipe | lane (n : Nat)
  deriving DecidableEq, Repr

/-- The lane that comes first in rotating order after the one served last. -/
def rotLane (last : Nat) (lanes : List (Fin 8)) : Option Nat :=
  ((List.range 8).map fun i => (last + 1 + i) % 8).find? fun n => lanes.any fun x => x.val == n

/-- One cycle of a leaf bank (R59): who is granted, and the turns after. -/
def Leaf.grant (l : Leaf) (x : BankAsk) : BankWin × Leaf :=
  match rotLane (l.laneLast.get 7 x.bank) x.lanes with
  | .none => (if x.pipe then .pipe else .none, l)
  | some n =>
    let served : Leaf := { l with laneLast := l.laneLast.set x.bank n }
    if !x.pipe then (.lane n, served)
    else if l.pipeTurn.contains x.bank then (.pipe, { l with pipeTurn := l.pipeTurn.filter (· != x.bank) })
    else (.lane n, { served with pipeTurn := insertNat l.pipeTurn x.bank })

/-- Every turn is with the NI side, as a reset leaves it (R59). -/
def Leaf.turnsReset (l : Leaf) : Leaf := { l with pipeTurn := [], laneLast := [] }

def leafTop : Nat := 0x600000
def heartTop : Nat := 0x4000000

end Sys2Proof.Machine
end

