-- ==== Sys2Proof/Machine/Arbiter.lean ====
section
/-! DEFINITION. Sampled queues with watermarks, and the age arbiter's cycle (chapter 04, chapter 12). -/

namespace Sys2Proof.Machine

/-- LEVEL after a depth change; the flag says that LEVEL went from 0 to 1 (R302). -/
def Wm.depth (w : Wm) (d : Nat) : Wm × Bool :=
  if w.hi = 0 then (w, false)
  else if !w.level && decide (w.hi ≤ d) then
    ({ w with level := true, event := true, count := sat16 w.count 1 }, true)
  else if w.level && decide (d ≤ w.lo) then ({ w with level := false }, false)
  else (w, false)

/-- A watermark write (R303): thresholds kept or not, EVENT cleared by a 1, IE taken; the flag says that the cause is
raised. d is the queue's depth. -/
def Wm.write (w : Wm) (v d : Nat) : Wm × Bool :=
  let hi := bits v 7 0
  let lo := bits v 15 8
  let keep := hi = 0 ∨ lo < hi
  let w1 : Wm := if keep then { w with hi := hi, lo := lo } else w
  let w2 : Wm := if bitAt v 17 then { w1 with event := false } else w1
  let ie' := bitAt v 18
  let rise := ie' && !w2.ie && w2.event
  let w3 : Wm := { w2 with ie := ie' }
  if keep ∧ hi = 0 then ({ w3 with level := false }, rise)
  else
    let (w4, up) := w3.depth d
    (w4, rise || (up && ie'))

/-- The register value of a watermark. -/
def Wm.value (w : Wm) : Nat :=
  w.hi + 256 * w.lo + (if w.level then 2 ^ 16 else 0) + (if w.event then 2 ^ 17 else 0) + (if w.ie then 2 ^ 18 else 0)

/-- The queue as cycle cyc began. -/
def QMon.begun (q : QMon) (cyc : Nat) : QStart :=
  let fresh : QStart := { cyc := cyc, depth := q.last, wm := q.wm, dmin := q.live.dmin, dmax := q.live.dmax,
                          notEmpty := q.notEmpty, notFull := q.notFull }
  match q.start with
  | some s => if s.cyc = cyc then s else fresh
  | none => fresh

/-- The depth after what has been pushed and popped in cycle cyc: samples, watermark and events by the change over the cycle,
whatever the order in it (R186, R188, R302, R304). cap: the FIFO's size where it has a not-full event. The flag: raise the
watermark cause. -/
def QMon.depth (q : QMon) (cyc : Nat) (cap : Option Nat) (d : Nat) : QMon × Bool :=
  let s := q.begun cyc
  let (w, up) := s.wm.depth d
  ({ q with
      wm := w, live := { q.live with dmin := min s.dmin d, dmax := max s.dmax d }, last := d, start := some s
      notEmpty := s.notEmpty + (if s.depth = 0 ∧ 0 < d then 1 else 0)
      notFull := s.notFull + (match cap with | some c => if c ≤ s.depth ∧ d < c then 1 else 0 | none => 0) }, up && w.ie)

/-- An entry that left after a delay (R304). -/
def QMon.left (q : QMon) (dly : Nat) : QMon :=
  { q with live := { q.live with
      dlyMax := max q.live.dlyMax (min dly 65535), dlySum := sat32 q.live.dlySum dly, nout := sat32 q.live.nout 1 } }

/-- The window closes with the queue at depth d (R305). -/
def QMon.tick (q : QMon) (d : Nat) : QMon := { q with snap := q.live, live := { dmin := d, dmax := d }, start := none }

/-- Longest transfer of a requester, in beats (Table 4.1); a bole port's locked read-modify-write takes 2 (R84). -/
def arbLongest (i r : Nat) (lock : Bool) : Nat := if i < 32 then (if r < 32 then (if lock then 2 else 1) else 4) else 16

/-- Requesters, default class and modes of Table 4.1. -/
def arbRequesters (i : Nat) : Nat := if i < 32 then 34 else if i = 32 then 82 else 8
def arbDefaultClass (i r : Nat) : Nat :=
  if i < 32 then (if r = 32 then 2 else 1)
  else if i = 32 then (if r < 64 then 1 else if r < 81 then 2 else 3)
  else r / 2
def arbDefaultMode (i : Nat) : Nat := if i < 32 then 0 else 1
def arbModeAllowed (i m : Nat) : Bool := if i < 32 then decide (m ≤ 2) else decide (m ≤ 1)

/-- An instance as reset leaves it (Table 4.3, R419). -/
def Arb.init (i : Nat) : Arb := { mode := arbDefaultMode i }

/-- Class of a requester: what AR_CLASS holds, by default Table 4.1. -/
def Arb.classOf (i : Nat) (a : Arb) (r : Nat) : Nat := a.cls.get (arbDefaultClass i r) r

/-- Does the plan start a transfer of this requester? -/
def ArbPlan.starts (p : ArbPlan) (r : Nat) : Bool :=
  match p with
  | .start e _ => e.req == r
  | _ => false

/-- Counter numbers of Table 18.8. -/
def arGRANT := 0
def arRESERVE := 1
def arPREEMPT := 2
def arDEAD := 3
def arREFUSED := 4
def arLOCKCUT := 5
def arNOCTX := 6
def arMASKDROP := 7

def Arb.count (a : Arb) (j : Nat) (n : Nat := 1) : Arb := { a with cntLive := a.cntLive.upd 0 j fun v => sat16 v n }

/-- A is older than B (R86). -/
def ArbEntry.older (a b : ArbEntry) : Bool :=
  let d := subMod 4096 b.stamp a.stamp
  decide (1 ≤ d ∧ d ≤ 2047)

def oldestOf : List ArbEntry → Option ArbEntry
  | [] => none
  | e :: es => match oldestOf es with
    | none => some e
    | some b => if b.older e then some b else some e

/-- Highest class, then oldest (R87). -/
def bestOf : List ArbEntry → Option ArbEntry
  | [] => none
  | e :: es => match bestOf es with
    | none => some e
    | some b => if b.cls > e.cls ∨ (b.cls = e.cls ∧ b.older e) then some b else some e

/-- The depth as it stands in the present cycle (Table 4.2, R302). -/
def Arb.setDepth (a : Arb) : Arb × Bool :=
  let (q, up) := a.qmon.depth a.cyc none a.q.length
  ({ a with qmon := q }, up)

/-- The start that was planned last cycle: the pop, and a loser into the slot freed. A locked request past 16 beats is counted
in AR_CNT_LOCKCUT when its transfer starts with no beat done (DESIGN CHOICE, log 46: R95 does not say when). -/
def Arb.startPlan (a : Arb) (now : Nat) : Arb :=
  match a.plan with
  | .start e loser =>
    let q1 := match loser with
      | some l => a.q ++ [{ l with loser := true, since := now }]
      | none => a.q
    let a1 : Arb := { a with
      q := q1.filter fun x => x.stamp != e.stamp
      ctxFree := a.ctxFree + (if e.ctx then 1 else 0)
      cur := some { e := { e with ctx := false }, lockLeft := if e.lock then min e.len 16 - e.done else 0 }
      qmon := a.qmon.left (now - e.since) }
    if e.lock ∧ 16 < e.len ∧ e.done = 0 then a1.count arLOCKCUT else a1
  | _ => a

/-- The beat of this cycle; answers the requester and the number of the beat. -/
def Arb.drive (a : Arb) : Arb × Option (Nat × Nat) :=
  match a.cur with
  | none => ({ a with withdraw := false }, none)
  | some c =>
    if a.withdraw ∨ c.ownerDead then
      let a1 := ({ a with withdraw := false }).count arDEAD
      if 1 < c.lockLeft then
        ({ a1 with cur := some { c with ownerDead := true, lockLeft := c.lockLeft - 1 } }, none)
      else ({ a1 with cur := none }, none)
    else
      let e : ArbEntry := { c.e with done := c.e.done + 1 }
      let c' : ArbCur := { c with e := e, lockLeft := c.lockLeft - 1 }
      ({ a with cur := if e.len ≤ e.done then none else some c' }, some (e.req, c.e.done))

/-- Step 1 of R90, once in a cycle. -/
def Arb.step1 (a : Arb) (now : Nat) : Arb × Option (Nat × Nat) :=
  if a.driven then (a, none)
  else
    let (a1, beat) := (a.startPlan now).drive
    ({ a1 with plan := .idle, driven := true, cyc := a.cyc + 1 }, beat)

/-- The decision of step 3 (R87, R88, R95, R96, R97). admits is the site's admission of R89. -/
def Arb.decision (a : Arb) (admits : ArbEntry → Bool) : Arb :=
  let el := a.q.filter fun e => !a.masked.contains e.req && admits e
  match a.cur with
  | some c =>
    if 0 < c.lockLeft ∨ c.e.reserve ∨ a.mode = 0 ∨ a.cnt = a.n - 1 then { a with plan := .keep }
    else match bestOf el with
      | none => { a with plan := .keep }
      | some b =>
        if b.cls ≤ c.e.cls then { a with plan := .keep }
        else if a.mode = 2 ∧ !c.e.isWrite then
          ({ a with plan := .start b (some { c.e with done := 0 }), cnt := a.cnt + 1 }.count arGRANT).count arPREEMPT
        else if 0 < a.ctxFree then
          ({ a with plan := .start b (some { c.e with ctx := true }), cnt := a.cnt + 1,
                    ctxFree := a.ctxFree - 1 }.count arGRANT).count arPREEMPT
        else { a with plan := .keep }.count arNOCTX
  | none =>
    if a.cnt = a.n - 1 then
      match oldestOf el with
      | none => { a with plan := .idle }
      | some e => ({ a with plan := .start { e with reserve := true } none, cnt := 0 }.count arGRANT).count arRESERVE
    else
      match bestOf el with
      | none => { a with plan := .idle }
      | some e => { a with plan := .start e none, cnt := a.cnt + 1 }.count arGRANT

/-- Step 3; the steps 1 and 2 that follow are the next cycle's. -/
def Arb.decide (a : Arb) (admits : ArbEntry → Bool) : Arb := { a.decision admits with driven := false }

def Arb.planReserve (a : Arb) : Bool :=
  match a.plan with
  | .start e _ => e.reserve
  | _ => false

/-- Insert by rotating index order from rot, among k requesters. -/
def rotKey (rot k r : Nat) : Nat := subMod k r rot

def insertBy (key : ArbReq → Nat) : List ArbReq → ArbReq → List ArbReq
  | [], r => [r]
  | x :: xs, r => if key r < key x then r :: x :: xs else x :: insertBy key xs r

def sortBy (key : ArbReq → Nat) (l : List ArbReq) : List ArbReq := l.foldl (insertBy key) []

/-- One presentation per requester, of requesters that are not masked and have no entry of their own (R85, R99). -/
def Arb.presentable (k : Nat) (a : Arb) (rs : List ArbReq) : List ArbReq :=
  rs.foldl (fun acc r =>
    if k ≤ r.req ∨ a.masked.contains r.req ∨ acc.any (·.req == r.req) ∨ a.q.any (fun e => e.req == r.req && !e.loser)
    then acc else acc ++ [r]) []

/-- Append accepted requests, in the order given, with stamps (R86). -/
def Arb.append (i : Nat) (now : Nat) (cls : Nat → Nat) : Arb → List ArbReq → Arb
  | a, [] => a
  | a, r :: rs =>
    let e : ArbEntry := { req := r.req, len := r.len, lock := r.lock, isWrite := r.isWrite,
                          cls := cls r.req, stamp := a.seq, since := now }
    Arb.append i now cls { a with q := a.q ++ [e], seq := (a.seq + 1) % 4096 } rs

/-- Step 4 of R90: accept into free slots in rotating order, stamp in ascending index order (R86, R92, R93). -/
def Arb.accept (i : Nat) (a : Arb) (reqs : List ArbReq) (cls : Nat → Nat) (now : Nat) : Arb × Bool :=
  let k := arbRequesters i
  let ps := a.presentable k (a.refused ++ reqs)
  let order := sortBy (fun r => rotKey a.rot k r.req) ps
  let free := 16 - a.q.length
  let ok := order.take free
  let no := order.drop free
  let fresh := (no.filter fun r => !a.refused.any (·.req == r.req)).length
  let rot := match ok.getLast? with
    | some r => (r.req + 1) % k
    | none => a.rot
  let a1 := Arb.append i now cls { a with refused := no, rot := rot } (sortBy (·.req) ok)
  let (a2, up) := a1.setDepth
  (if fresh = 0 then a2 else a2.count arREFUSED fresh, up)

/-- A mask takes effect, in step 2 of a cycle whose step 1 has been carried out (R90, R99). -/
def Arb.mask (a : Arb) (r : Nat) : Arb :=
  if a.masked.contains r then a else
  let gone : List ArbEntry := a.q.filter (·.req == r)
  let a1 : Arb := { a with
    masked := insertNat a.masked r
    q := a.q.filter (·.req != r)
    ctxFree := a.ctxFree + (List.filter (fun e : ArbEntry => e.ctx) gone).length
    refused := a.refused.filter (·.req != r)
    cur := match a.cur with
      | some c => if c.e.req == r then (if 0 < c.lockLeft then some { c with ownerDead := true } else none) else some c
      | none => none }
  let a2 := if gone.isEmpty then a1 else a1.count arMASKDROP gone.length
  (a2.setDepth).1

def Arb.unmask (a : Arb) (r : Nat) : Arb :=
  { a with masked := a.masked.filter (· != r), refused := a.refused.filter (·.req != r) }

/-- Is this entry the one that the plan starts? -/
def Arb.planned (a : Arb) (e : ArbEntry) : Bool :=
  match a.plan with
  | .start p _ => p.stamp == e.stamp
  | _ => false

/-- Withdrawal of a transfer that holds the port, or that holds it from the next cycle on: its beat is dead (R98). -/
def Arb.withdrawTransfer (a : Arb) (r : Nat) : Arb :=
  let owns : Bool := match a.plan, a.cur with
    | .start e _, _ => e.req == r
    | _, some c => c.e.req == r
    | _, none => false
  if owns then { a with withdraw := true } else a

/-- Withdrawal of one entry: the one that the requester presented, or its loser. One that is planned to start has its beat in
the next cycle, which is dead. A loser's resume context is freed (DESIGN CHOICE, log 46: R98 does not say; R99 does of a
mask). -/
def Arb.withdrawEntry (a : Arb) (r : Nat) (loser : Bool) : Arb × Bool :=
  match a.q.find? fun e : ArbEntry => e.req == r && e.loser == loser with
  | none => (a, false)
  | some e =>
    if a.planned e then (a.withdrawTransfer r, false)
    else ({ a with q := a.q.erase e, ctxFree := a.ctxFree + (if e.ctx then 1 else 0) }).setDepth

/-- A write of AR_CTRL, each field judged on its own (R102). -/
def Arb.writeCtrl (i : Nat) (a : Arb) (v : Nat) : Arb :=
  let n := bits v 6 0
  let m := bits v 9 8
  let a1 : Arb := if 2 ≤ n ∧ n ≤ 64 then { a with n := n, cnt := 0 } else a
  if arbModeAllowed i m then { a1 with mode := m } else a1

/-- A write of AR_CLASS_n (R102): requesters 16n to 16n + 15. -/
def Arb.writeClass (i : Nat) (a : Arb) (n v : Nat) : Arb :=
  { a with cls := (List.range 16).foldl (fun t j =>
      if 16 * n + j < arbRequesters i then t.set (16 * n + j) (bits v (2 * j + 1) (2 * j)) else t) a.cls }

/-- The window closes (R103, R305). -/
def Arb.tick (a : Arb) (tickNum : Nat) : Arb :=
  { a with cntSnap := a.cntLive, cntLive := [], qmon := a.qmon.tick a.q.length, smpTick := tickNum }

/-- AR_STATUS (Table 4.3). -/
def Arb.status (a : Arb) : Nat :=
  a.q.length + 32 * (16 - a.ctxFree) +
    (match a.cur with | some c => if 0 < c.lockLeft then 1024 else 0 | none => 0)

end Sys2Proof.Machine
end

