-- ==== Sys2Proof/Machine/StNi.lean ====
section
/-! DEFINITION. State of routers and of the NI's dynamic plane: queues, requests, answers, suppression (06, 07, 09, 10). -/

namespace Sys2Proof.Machine

/-- What an injection-queue entry holds: a request still to be built, or a packet with its flits. -/
inductive InjWhat
  | req (q : Push) (granules : Nat)
  | pkt (flits : List Flit)
  deriving DecidableEq, Repr

/-- An entry of an injection queue (R180): op is the NI operation it belongs to, 0 for none; key is GROUP and EPOCH of the
collective operation that owns the action it comes from (R341). -/
structure InjEntry where
  what : InjWhat
  op : Nat := 0
  key : Option (Nat × Nat) := none
  pushedAt : Nat := 0
  deriving DecidableEq, Repr

/-- An unanswered VN0 request (R252). due is the due window of its resend once it is due. -/
structure ReqRec where
  dstX : Nat
  dstY : Nat
  alive : Nat
  q : Push
  granules : Nat
  op : Nat
  /-- Window of the first injection. -/
  window : Nat
  due : Option Nat := none
  /-- It leaves in the burst of an earlier request's resend (R254). -/
  burst : Bool := false
  resent : Bool := false
  /-- Bad answers received for its ALIVE (R255). -/
  bad : Nat := 0
  /-- The payload of a WRITE_SHORT as first sent, and its poison: a resend keeps it (R252). -/
  kept : Option (List Byte × Bool) := none
  deriving DecidableEq, Repr

/-- ALIVE counter of one destination (R182, R264). fetching: ALIVEs of fetching ATOMICs injected lately (R253). -/
structure AliveEnt where
  dstX : Nat
  dstY : Nat
  next : Nat := 0
  /-- State.now at which 8 tick periods from the last injection end, by the period in force then (R7, R264). -/
  freeAt : Nat := 0
  fetching : List Nat := []
  deriving DecidableEq, Repr

/-- A reservation of VN1 reassembly slots (R184). -/
structure Resv where
  dstX : Nat
  dstY : Nat
  alive : Nat
  flits : Nat
  window : Nat
  deriving DecidableEq, Repr

/-- An operation of the bole that sends VN0 requests (R170): requests not yet injected, and requests unanswered. -/
structure NiOp where
  id : Nat
  unsent : Nat
  awaiting : Nat
  faulted : Bool := false
  /-- The counter that the trigger action which started it adds to at its completion (R335). -/
  chain : Option Nat := none
  deriving DecidableEq, Repr

/-- A packet being gathered, or gathered, in a reassembly buffer (R184). Flits in order of arrival. -/
structure RxPkt where
  vn : Nat
  vc : Nat
  flits : List Flit
  whole : Bool
  deriving DecidableEq, Repr

/-- A multicast record of a suppression entry (Table 10.3). -/
structure McRec where
  opnum : Nat
  held : BitVec 32
  npkt : Nat
  /-- A packet failed a check of R166 (R223). -/
  bad : Bool := false
  /-- Attempts for which a MACK was sent, the latest first (R226). -/
  macked : List Nat := []
  deriving DecidableEq, Repr

/-- A duplicate-suppression entry (Table 10.3). done bit k: ALIVE h - k is done. code lists answer statuses by ALIVE. -/
structure Dedup where
  srcX : Nat
  srcY : Nat
  tag : Nat
  h : Nat := 0
  done : BitVec 64 := 0
  code : List (Nat × Nat) := []
  fetch : List (Nat × Nat) := []
  mc : List McRec := []
  last : Nat := 0
  /-- A VN0 request has set H and DONE; false for an entry that a multicast packet created (R266). -/
  vn0 : Bool := true
  deriving DecidableEq, Repr

/-- The counts of one attempt of a multicast operation (R227): MACK data as two 512-bit and 256-bit masks. -/
structure McTally where
  contrib : Nat := 0
  pruned : Nat := 0
  status : Nat := 0
  maskX : Nat := 0
  maskY : Nat := 0
  deriving DecidableEq, Repr

/-- A multicast operation at its source (R227, R228, R229, R230). -/
structure McSrc where
  opnum : Nat
  op : McOp
  npkt : Nat
  /-- Bytes of the last granule that are sent, 0 for all 64 (R328, log 40). -/
  tail : Nat := 0
  /-- Its packets have been made; an operation beyond the two oldest waits (R229). -/
  started : Bool := true
  /-- State.now of the first packet's injection and the tick period then in force, once it has left (R7, R228). -/
  firstAt : Option (Nat × Nat) := none
  /-- Window in which the last packet of the present attempt was injected, once it has. -/
  lastWin : Option Nat := none
  /-- Attempts started less 1, and packets of the present one that have not been injected. -/
  attempt : Nat := 0
  left : Nat := 0
  tally : Tab McTally := []
  stalled : Bool := false
  /-- Group, epoch and lane of the collective that it belongs to; its completion then writes no record of its own. -/
  coll : Option (Nat × Nat × Nat) := none
  /-- STATUS of its set flits: what the sums of a chunk had (R330). -/
  status : Nat := 0
  /-- The counter that the trigger action which started it adds to at its completion (R335). -/
  chain : Option Nat := none
  deriving DecidableEq, Repr

/-- A combining key (R237). -/
structure RedKey where
  tag : Nat
  dstX : Nat
  dstY : Nat
  rtag : Nat
  chunk : Nat
  deriving DecidableEq, Repr

/-- What a REDUCE packet carries besides its key (Table 9.2). -/
structure RedBody where
  set : McSet
  rop : Nat
  fmt : Nat
  acc : Bool
  fast : Bool
  wide : Bool
  elems : Nat
  status : Nat
  contrib : Nat
  pruned : Nat
  flag : Nat
  loc : Nat
  age : Nat
  vc : Nat
  poison : Bool
  data : List Byte
  /-- State.now of the arrival of its tail flit (R233). -/
  arrived : Nat := 0
  deriving DecidableEq, Repr

/-- A key's progress at its reduction root (R240): the sums, the first arrival, the tick of the latest arrival, and the
landing zone. -/
structure RedRoot where
  key : RedKey
  contrib : Nat
  status : Nat
  first : RedBody
  zone : Nat
  deriving DecidableEq, Repr

/-- A combining entry of a router (R232): the contributions delivered, by the port each came in at, in order of arrival. -/
structure Comb where
  key : RedKey
  expect : List Nat
  parts : List (Nat × RedBody)
  deriving DecidableEq, Repr

/-- A router (06, 07): buffers keyed 8 * port + 2 * VN + VC with ports numbered north 0 to bole 4. -/
structure Router where
  buf : Tab (List Flit) := []
  /-- The receiver of this buffer has raised off, and the state the sender last received (R172). -/
  off : Tab Bool := []
  seenOff : Tab Bool := []
  /-- Output channel to the input channel that holds it: key plus 1; 1001 plus the key of the half for a multicast
  buffer's branch (R224). -/
  holder : Tab Nat := []
  /-- Last input port granted an output channel, and last virtual channel served by an output port (R137). -/
  rrIn : Tab Nat := []
  rrOut : Tab Nat := []
  /-- AGE plus 1 of the packet that holds each output channel (R176). -/
  holdAge : Tab Nat := []
  /-- The checks as flits are read from the router's buffers, keyed by Src.track, as they arrive in them, keyed by Dest.track,
  and as a branch reads them from a multicast buffer, keyed 8 * half + branch (R241). -/
  chk : Tab Chk := []
  arr : Tab Chk := []
  brChk : Tab Chk := []
  /-- State.now plus 1 of the dynamic flits that each output port carried last, the latest first: three at most (R137). -/
  outCyc : Tab (List Nat) := []
  /-- AGE plus 1 of the MCAST packet open on this input, 0 for none, keyed 2 * port + VC: its flits go to the multicast buffer
  (R224). -/
  mopen : Tab Nat := []
  /-- Detour buffers, keyed 64 * stage (Src.stage) + 8 * port + 2 * VN + direction (0 south, 1 north), whether each has raised
  off, and the alternation of R151: the link of this output port carried a detour flit last. -/
  detour : Tab (List Flit) := []
  detOff : Tab Bool := []
  detTurn : Tab Bool := []
  /-- Multicast buffers of VN2, keyed 2 * input port + VC: each held flit with the branches still to send (R224).
  A branch is an output port, coded 0 to 4. -/
  mbuf : Tab (List (Flit × List Nat)) := []
  /-- Branches of the packet open on a multicast input. -/
  mbr : Tab (List Nat) := []
  comb : Tab (Option Comb) := []
  /-- Combined packets that wait for their output, by virtual channel (R232). -/
  comOut : Tab (List Flit) := []
  /-- Landing buffers of the scheduled plane, by IN port: arrival cycle and flit (R199, R206). -/
  landing : Tab (List (Nat × SchedFlit)) := []
  /-- Twig router: input buffers keyed 2 * port + VC, and whether each has raised off (R308). -/
  tw : Tab (List Eft) := []
  twOff : Tab Bool := []
  deriving DecidableEq, Repr

/-- The NI's dynamic plane (R180 to R185, R249 to R265, R220 to R230, R240). -/
structure Ni where
  q : Tab (List InjEntry) := []
  qmon : Tab QMon := []
  smpTick : Nat := 0
  cnt : Tab Nat := []
  cntSnap : Tab Nat := []
  bstallOp : Nat := 0
  bstallV : Bool := false
  badPkt : Nat := 0
  badPktV : Bool := false
  /-- First expired header of the open window, and the snapshot NI_EXPIRE. -/
  expireLive : Option Nat := none
  expire : Nat := 0
  reqs : List ReqRec := []
  alive : List AliveEnt := []
  resv : List Resv := []
  ops : List NiOp := []
  nextOp : Nat := 1
  /-- Operations whose completion is visible (R170). -/
  doneOps : List Nat := []
  /-- Ejection buffers keyed 2 * VN + VC, with off raised and the state the router last received. -/
  ej : Tab (List Flit) := []
  ejOff : Tab Bool := []
  ejSeen : Tab Bool := []
  /-- The checks of the ejection port, by channel (R241). -/
  ejChk : Tab Chk := []
  rx : List RxPkt := []
  dedup : List Dedup := []
  /-- Tick at which quarantine ends (R265). -/
  quarantine : Option Nat := none
  /-- VN0 to VN2 in the order in which the injection port serves them next (R183, R298). -/
  rotInj : List Nat := [0, 1, 2]
  /-- State.now from which the packet at the head of a queue counts as its head, by VN (R306). -/
  headFrom : Tab Nat := []
  /-- Flits of the packet being injected that have not left, by VN (R183). -/
  inj : Tab (List Flit) := []
  /-- State.now plus 1 of the cycle in which the injection port carried its last flit; 0 for none (R183). -/
  injCyc : Nat := 0
  mc : List McSrc := []
  nextOpnum : Nat := 0
  roots : List RedRoot := []
  /-- An abort of the glade holds the NI (R427). -/
  aborting : Bool := false
  deriving DecidableEq, Repr

end Sys2Proof.Machine
end

