-- ==== Sys2Proof/Machine/StColl.lean ====
section
/-! DEFINITION. State of the twig's bole side, collectives, counters and triggers (chapter 13, Tables 18.10 to 18.13). -/

namespace Sys2Proof.Machine

/-- An eft inbox (R314, R473): entries with the State.now of their push, and the latch of bytes 8 to 15. -/
structure Inbox where
  q : List (Eft × Nat) := []
  /-- Off towards the network (Table 7.7). -/
  off : Bool := false
  latch : Nat := 0
  mon : QMon := {}
  deriving DecidableEq, Repr

/-- A group record (Table 18.13). -/
structure Group where
  v : Bool := false
  part : Nat := 0
  exec : Bool := false
  fast : Bool := false
  acc : Bool := false
  lane : Nat := 0
  set : McSet := { x0 := 0, y0 := 0, lsx := 0, lsy := 0, nx := 0, ny := 0 }
  rootI : Nat := 0
  rootJ : Nat := 0
  timeout : Nat := 50
  epoch : Nat := 0
  launches : Nat := 0
  /-- A write held while the operation runs (R477). -/
  held : Option (BitVec 256) := none
  deriving DecidableEq, Repr

/-- One eft tallied by the collective engine for a group (R323, R325). -/
structure Tally where
  group : Nat
  epoch : Nat
  kind : Nat
  srcX : Nat
  srcY : Nat
  word : Nat
  data : BitVec 64
  deriving DecidableEq, Repr

/-- A launched operation at a member (R320 to R343). lrec is its launch record. -/
structure CollOp where
  group : Nat
  lrec : List Byte
  epoch : Nat
  launchNo : Nat
  /-- False while it waits in its lane's launch queue (R322). -/
  started : Bool
  /-- Words whose upward eft has been sent, and downward words held (R323). -/
  upSent : List Nat := []
  down : Tab (BitVec 64) := []
  /-- Chunks started, and those of the open window (R329). -/
  chunks : Nat := 0
  chunksTick : Nat := 0
  /-- For each chunk, pieces landed here, their STATUS by OR, and the chunk counter's value at which they are complete
(R330, R331). -/
  landed : Tab (Nat × Nat × Nat) := []
  /-- Chunks of an ALLREDUCE whose multicast has been triggered at their root. -/
  fired : List Nat := []
  pruned : Nat := 0
  /-- Results of the count exchange: offset, chunk offset, total, chunks (R327). -/
  scan : Option (Nat × Nat × Nat × Nat) := none
  deriving DecidableEq, Repr

/-- CL_TRIG_t (Table 18.12). -/
structure Trig where
  v : Bool := false
  ctr : Nat := 0
  /-- ACT; the engine's own entry for a chunk has 16 (R330). -/
  act : Nat := 0
  lane : Nat := 0
  group : Nat := 0
  epoch : Nat := 0
  thresh : Nat := 0
  desc : Nat := 0
  /-- State.now at which the entry was last written: it fires in a later cycle (R476). -/
  since : Option Nat := none
  deriving DecidableEq, Repr

/-- A VN2 packet that a lane has ready to push (R299). op is the NI operation or 0. -/
structure LanePkt where
  flits : List Flit
  group : Nat
  epoch : Nat
  deriving DecidableEq, Repr

structure Coll where
  /-- The TW_SEND queue, with its events; efts of the engine and of triggers that wait to leave (R313, R323, log 40). -/
  sendQ : List Eft := []
  sendMon : QMon := {}
  engQ : List (Eft × Option (Nat × Nat)) := []
  /-- Efts that have arrived at the bole and have not been taken by an inbox or the engine, oldest first. -/
  arrived : List Eft := []
  inbox : Tab Inbox := []
  twCnt : Tab Nat := []
  twSnap : Tab Nat := []
  twSmpTick : Nat := 0
  groups : Tab Group := []
  loss : List Nat := []
  ctr : Tab Nat := []
  trig : Tab Trig := []
  /-- Entries that fired in this cycle, and the trigger output queue (R335). -/
  fired : List Trig := []
  firedAt : Nat := 0
  trigQ : List Trig := []
  trigMon : QMon := {}
  ops : List CollOp := []
  laneReady : Tab (List LanePkt) := []
  deficit : Tab Nat := []
  /-- Lane visited last by the deficit round robin. -/
  rrLane : Nat := 7
  tally : List Tally := []
  cnt : Tab Nat := []
  snap : Tab Nat := []
  smpTick : Nat := 0
  deriving DecidableEq, Repr

end Sys2Proof.Machine
end

