-- ==== Sys2Proof/Machine/StLink.lean ====
section
/-! DEFINITION. State of a link port: training, sequence and replay, receive regions, HOLD, twig lane, egress (06, 14). -/

namespace Sys2Proof.Machine

/-- LK_STATUS.STATE (Table 14.6, in order). -/
inductive Train | detect | equalise | lock | ident | measure | active
  deriving DecidableEq, Repr

/-- HOLD at the receiver for one VN (R362 to R366). Times are State.now. -/
structure HoldSt where
  /-- End of the hold in force; while wait is not 0 the end counts from the next frame boundary, wait units of HT on. -/
  until_ : Option Nat := none
  wait : Nat := 0
  /-- Start of the continuous hold, at its frame boundary. -/
  start : Option Nat := none
  /-- HOLDs are ignored before this (R366). -/
  ignore : Nat := 0
  lastHid : Option Nat := none
  deriving DecidableEq, Repr

/-- A HOLD being sent: copies left and frames until the next copy (R362). -/
structure HoldTx where
  vn : Nat
  ht : Nat
  hid : Nat
  copies : Nat
  gap : Nat
  deriving DecidableEq, Repr

/-- A link flit on its way into frames: of the dynamic plane, a tick-sync eft among it, or scheduled. -/
inductive AsmKind | dyn | tickSync | sched
  deriving DecidableEq, Repr

/-- The twig lane of a link (R372, R373). -/
structure Lane where
  nextSeq : Nat := 0
  expSeq : Nat := 0
  replayBuf : List (Nat × Eft) := []
  /-- Next eft to resend from the replay buffer, by number. -/
  replayPos : Option Nat := none
  /-- Lane frames since the start of the last replay; 24 or more lets another start. -/
  holdoff : Nat := 24
  wantReplay : Bool := false
  /-- Lane frames sent since the replay request was last sent; 24 or more lets it be sent. -/
  reqGap : Nat := 24
  bad3 : Nat := 0
  /-- Efts that wait to be sent, and receive channels 0 and 1 with their off state (R373). -/
  out : List Eft := []
  rx : Tab (List Eft) := []
  rxOff : Tab Bool := []
  /-- ONOFF bits last received. -/
  partnerOff : Tab Bool := []
  tx : Option LaneFrame := none
  deriving DecidableEq, Repr

/-- One link port (Table 18.8). Channels are numbered 2 * VN + VC. -/
structure Link where
  disable : Bool := false
  train : Train := .detect
  down : Bool := false
  tooLong : Bool := false
  miscabled : Bool := false
  /-- The Rootstock has admitted the partner (R134, R368). -/
  admitted : Bool := false
  rtt : Nat := 0
  fibre : Nat := 0
  skid : Nat := 0
  partner : Option Ident := none
  escape : Nat := 0
  escapeV : Bool := false
  cnt : Tab Nat := []
  snap : Tab Nat := []
  smpTick : Nat := 0
  /-- Training in progress is a fast retrain; failed fast retrains and full trains (R370). -/
  fast : Bool := false
  /-- The present training state's condition for ACTIVE is met: the partner matches (fast), or LK_RTT is in bounds. -/
  okNext : Bool := false
  failFast : Nat := 0
  failFull : Nat := 0
  /-- Link retrained or was untrained in the open window (R207). -/
  eventWin : Bool := true
  /-- The same of the window before. -/
  eventLast : Bool := true
  -- sender
  nextSeq : Nat := 0
  replayBuf : List LinkFrame := []
  /-- SEQ to resend next while a replay runs, its start, the ESEQ and the count of R359. -/
  replayPos : Option Nat := none
  replayAt : Option Nat := none
  /-- A replay has been asked for and its first frame has not left. -/
  replayNew : Bool := false
  replayEseq : Nat := 0
  replays : Nat := 0
  /-- Bytes of the frame being assembled, and those that continue in the next one (R351). -/
  asm : List Byte := []
  /-- Lengths of the link flits that asm holds, in order, and what they are. -/
  asmItems : List (Nat × AsmKind) := []
  /-- SEQs of the stored frames in which scheduled flits travel (R200). -/
  schedSeqs : List Nat := []
  /-- SEQs of the stored frames in which a tick-sync eft begins (R374). -/
  syncSeqs : List Nat := []
  /-- The frame sent last. -/
  tx : Option LinkFrame := none
  partnerOff : Tab Bool := []
  -- receiver
  expSeq : Nat := 0
  wantReplay : Bool := false
  /-- Bad frames of the expected SEQ under R492 in a row. -/
  bad492 : Nat := 0
  /-- Start of a link flit that continues in the next data frame (R351). -/
  part : List Byte := []
  rx : Tab (List Flit) := []
  rxOff : Tab Bool := []
  /-- The packet arriving on this channel is being discarded (R495). -/
  rxDrop : Tab Bool := []
  /-- Side (plus 1) of the router to which the packet leaving the region is handed; 0 between packets. -/
  rxSide : Tab Nat := []
  /-- Scheduled flits received, in order. -/
  rxSched : List SchedFlit := []
  -- HOLD
  hold : Tab HoldSt := []
  holdTx : List HoldTx := []
  /-- HID of the next HOLD (R362). -/
  hidNext : Nat := 0
  lane : Lane := {}
  -- egress
  /-- Egress buffers (R494): keyed 8 * side + channel, side 0 or 1 for the two routers served. -/
  eg : Tab (List Flit) := []
  egOff : Tab Bool := []
  egSeen : Tab Bool := []
  /-- The adapter's checks of the flits that come from its two routers, keyed as its buffers are (R241). -/
  egChk : Tab Chk := []
  /-- Side whose packet each channel presents, while one is open; side served last. -/
  egSel : Tab Nat := []
  egOpen : Tab Bool := []
  /-- AGE of the packet open on each channel (R176). -/
  egAge : Tab Nat := []
  egLast : Tab Nat := []
  /-- The packet at this channel's head is being discarded (R143, R176). -/
  egDrop : Tab Bool := []
  /-- Flits of the transfer still to be presented as later requests; colour and class in force for the packet. -/
  egCls : Tab Nat := []
  egAdmitted : Tab Bool := []
  headAt : Tab Nat := []
  vcMon : Tab QMon := []
  shaper : Shaper := {}
  deriving DecidableEq, Repr

end Sys2Proof.Machine
end

