-- ==== Sys2Proof/Machine/StRoot.lean ====
section
/-! DEFINITION. State of the Root: rings, functions, causes, host reads and what leaves on PCIe (15, 16, 18). -/

namespace Sys2Proof.Machine

/-- STATE of a ring (Table 15.5). -/
inductive RingState | disabled | idle | running | quiesced | stopped
  deriving DecidableEq, Repr

/-- A fetched descriptor: its number and its 64 bytes, with the status its failed fetch or failed reads have given it so
far, its host reads that have not ended, and what they have returned: offset, bytes, poisoned. -/
structure Desc where
  n : Nat
  bytes : List Byte
  status : Nat := 0
  detail : Nat := 0
  left : Nat := 0
  got : List (Nat × List Byte × Bool) := []
  deriving DecidableEq, Repr

/-- One ring (Table 15.4) with its engine (R391, R397, R398). -/
structure Ring where
  base : Nat := 0
  dbr : Nat := 0
  cq : Nat := 0
  log2size : Nat := 6
  en : Bool := false
  poll : Bool := true
  st : RingState := .disabled
  head : Nat := 0
  tailSeen : Nat := 0
  /-- A doorbell-record read is outstanding, and one further cause has arisen (R391). -/
  recOut : Bool := false
  recMore : Bool := false
  /-- A ring reset is to be carried out, and its own record read is outstanding (R409). -/
  rstDue : Bool := false
  rstOut : Bool := false
  /-- State.now at which that read was issued, and the tick period then (R7, R429). -/
  rstAt : Option Nat := none
  rstPeriod : Nat := 0
  /-- Next descriptor to fetch, and the count of the fetch outstanding (0 none). -/
  fetchPos : Nat := 0
  fetchLen : Nat := 0
  waiting : List Desc := []
  exec : List Desc := []
  /-- Ended and not yet issued. -/
  ended : List Desc := []
  deriving DecidableEq, Repr

/-- MSI-X structures of a function (R413, PCIe Base Specification). -/
structure Msix where
  enable : Bool := false
  fmask : Bool := false
  vmask : Bool := true
  pend : Bool := false
  addr : Nat := 0
  data : Nat := 0
  deriving DecidableEq, Repr

/-- FN_ABORT_STATUS (Table 16.5) and the progress of the abort. -/
structure AbortSt where
  state : Nat := 0
  repeats : Nat := 0
  startTick : Nat := 0
  /-- The tick period at the start, and State.now then (R7, R430). -/
  startPeriod : Nat := 0
  startAt : Nat := 0
  /-- Step 5 of R428 has been carried out. -/
  collDone : Bool := false
  deriving DecidableEq, Repr

/-- A check-value unit (Table 11.1 to Table 11.3). The FIFO holds offset, width and value of the writes not carried out. -/
structure Cv where
  cfg : Nat := 0x31F
  poly : Nat := 0x04C11DB7
  init : Nat := 0xFFFFFFFF
  xorout : Nat := 0xFFFFFFFF
  state : Nat := 0xFFFFFFFF
  expect : Nat := 0
  latched : Nat := 0
  alive : Nat := 0
  status : Nat := 0
  bytes : Nat := 0
  cntMatch : Nat := 0
  cntMismatch : Nat := 0
  watch : Nat := 0
  /-- The count has just reached WATCH at a tick (R284). -/
  due : Bool := false
  fifo : List (Nat × Nat × Nat) := []
  /-- Not-empty and not-full events of the input FIFO (R188, R279). -/
  notEmpty : Nat := 0
  notFull : Nat := 0
  deriving DecidableEq, Repr

/-- Configuration state of a function beside what the model acts on: its base address registers (R382), the status bits of the
header and of Device Status, error reporting, and Advanced Error Reporting (R378, R406; reset values and places: log 7). -/
structure PciCfg where
  /-- BAR 0-1 of the PF, and VF BAR 0-1 of its SR-IOV capability: the address bits that software wrote. -/
  bar : Nat := 0
  vfBar : Nat := 0
  numVfs : Nat := 0
  serr : Bool := false
  /-- Received Master Abort and Received Target Abort of the Status register. -/
  gotUr : Bool := false
  gotCa : Bool := false
  /-- Error reporting enables of Device Control, and the errors that Device Status holds. -/
  errEn : Nat := 0
  devSta : Nat := 0
  /-- Uncorrectable Error Status, Mask and Severity. -/
  aerSta : Nat := 0
  aerMask : Nat := 0
  aerSev : Nat := 0x00462030
  deriving DecidableEq, Repr

/-- One function (Tables 15.3, 15.4, 16.1, 18.4) with the configuration state it acts on. -/
structure Func where
  noGlade : Bool := true
  badCfg : Bool := false
  escalated : Bool := false
  fresh : Bool := true
  lock : Bool := false
  cntBadDb : Cnt := {}
  cntNudgeIgn : Cnt := {}
  smpTick : Nat := 0
  rings : Tab Ring := []
  ovfBase : Nat := 0
  ovfSize : Nat := 0
  sumEn : Nat := 0
  ringLeaf : BitVec 16 := 0
  ringEn : BitVec 16 := 0
  funcLeaf : BitVec 5 := 0
  funcEn : BitVec 5 := 0
  boleEn : BitVec 8 := 0
  pkgLeaf : BitVec 7 := 0
  pkgEn : BitVec 7 := 0
  arm : Bool := true
  abort : AbortSt := {}
  msix : Msix := {}
  /-- Configuration state: Bus Master Enable, D3hot, Max_Payload_Size, Max_Read_Request_Size, Enable Relaxed
  Ordering, Interrupt Disable (log 7: PRESUMED, the PCI Express Base Specification's reset values). -/
  bme : Bool := false
  d3 : Bool := false
  mps : Nat := 128
  mrrs : Nat := 512
  relax : Bool := true
  intDis : Bool := false
  /-- VF Enable of the SR-IOV capability: the PF's alone. -/
  vfEn : Bool := false
  cfg : PciCfg := {}
  /-- Function reset in progress (R417). -/
  inReset : Bool := false
  /-- State.now at which an FLR was initiated (R424, R425). -/
  flrStart : Option Nat := none
  cv : Cv := {}
  deriving DecidableEq, Repr

/-- What an outstanding host read is for (R404, R406). -/
inductive ReadFor
  | record (ring : Nat)
  | resetRecord (ring : Nat)
  | fetch (ring : Nat)
  /-- Bytes from this offset on of what descriptor n reads. -/
  | data (ring n off : Nat)
  /-- A read whose result nothing waits for any more (R409). -/
  | stale
  /-- An overflow read of a bole's NI DMA: the operation it belongs to and the leaf address its bytes land at. -/
  | overflow (bole op leaf : Nat)
  deriving DecidableEq, Repr

structure HostRead where
  tag : Nat
  fn : Nat
  addr : Nat
  len : Nat
  what : ReadFor
  deriving DecidableEq, Repr

/-- A request that the Root has issued to the host (R402). -/
inductive Tlp
  | memWr (fn addr : Nat) (data : List Byte) (relaxed poisoned : Bool)
  | memRd (fn addr len tag : Nat) (relaxed : Bool)
  | msix (fn addr data : Nat)
  /-- An error message: ERR_FATAL or ERR_NONFATAL (R402, R406). -/
  | err (fn : Nat) (fatal : Bool)
  deriving DecidableEq, Repr

/-- An overflow read that waits for its budget (R72, R75). -/
structure OvfPend where
  bole : Nat
  op : Nat
  /-- Offset in the overflow window, the leaf address of its landing, and its bytes. -/
  off : Nat
  leaf : Nat
  len : Nat
  deriving DecidableEq, Repr

end Sys2Proof.Machine
end

