-- ==== Sys2Proof/Machine/StSched.lean ====
section
/-! DEFINITION. State of the scheduled plane at one router and its NI (chapter 08, Table 18.10, Table 18.11). -/

namespace Sys2Proof.Machine

/-- A bank header (Table 8.3). -/
structure SchedHdr where
  periodUs : Nat := 0
  m : Nat := 0
  entries : Nat := 0
  tag : Nat := 0
  deriving DecidableEq, Repr

/-- NI_STREAM_n (Table 18.11) with its occurrence in progress (R202 to R205). -/
structure Stream where
  eject : Bool := false
  addr : Nat := 0
  advance : Nat := 0
  nbuf : Nat := 1
  flits : Nat := 0
  flag : Nat := 0
  flagSel : Bool := false
  credit : Nat := 0
  deriving DecidableEq, Repr

/-- An occurrence in progress, with the descriptor fields taken at its start (R475). -/
structure Occ where
  d : Stream
  /-- Occurrence count of this occurrence. -/
  k : Nat
  /-- TK_TICK_NUM of the tick that opened the window. -/
  window : Nat
  /-- At a destination, the link that the ejection entry faces. -/
  link : Option Nat := none
  /-- At a destination, State.now of the last of FLITS flits, and 48 cycles after the entry's last reserved cycle (R204). -/
  lastAt : Option Nat := none
  endAt : Nat := 0
  /-- Flits ejected (for a source: slots passed), flits written or sent, first poisoned IDX, a VOID was seen. -/
  seen : Nat := 0
  landed : Nat := 0
  firstBad : Option Nat := none
  poisoned : Bool := false
  sawVoid : Bool := false
  /-- Payloads read ahead at the source, with their poison. -/
  data : List (List Byte × Bool) := []
  deriving DecidableEq, Repr

/-- The scheduled plane of one NI. active: 0 none, 1 bank A, 2 bank B, 3 single. -/
structure Sched where
  single : Bool := false
  armed : Bool := false
  badTable : Bool := false
  lateArm : Bool := false
  mismatch : Bool := false
  active : Nat := 0
  activeWr : Bool := false
  badIdx : Nat := 0
  switchTick : Nat := 0
  hdrA : SchedHdr := {}
  hdrB : SchedHdr := {}
  idx : Nat := 0
  entries : Tab (BitVec 64) := []
  streams : Tab Stream := []
  /-- Occurrences so far, by stream (R202, R203). -/
  occNum : Tab Nat := []
  /-- Occurrences in progress, by stream and parity of the window (occKey). -/
  occ : Tab (Option Occ) := []
  /-- A check runs since the ARM write at this tick (R210). -/
  checking : Option Nat := none
  /-- STOP has been written: the plane stops at the next tick (R211, R212). -/
  stopping : Bool := false
  /-- Bank that was active last: 1 A, 2 B. -/
  lastBank : Nat := 2
  /-- One more than the window of the last record of each stream (R204). -/
  recWin : Tab Nat := []
  deriving DecidableEq, Repr

end Sys2Proof.Machine
end

