-- ==== Sys2Proof/Machine/StSparse.lean ====
section
/-! DEFINITION. State of the sparse front end (chapter 05). -/

namespace Sys2Proof.Machine

/-- A unit (i, c) of a walk with its cost and the hops it has made (R114, R116). -/
structure SpUnit where
  i : Nat
  c : Nat
  cost : Nat
  hops : Nat := 0
  deriving DecidableEq, Repr

/-- A lane: its waiting units, the unit it walks with the cycles left, and the units on the ring towards it. -/
structure SpLane where
  q : List SpUnit := []
  cur : Option (SpUnit × Nat) := none
  fromPrev : List SpUnit := []
  fromNext : List SpUnit := []
  deriving DecidableEq, Repr

/-- A matrix step with what it staged (R105, R106), its output tile row after row, and its walk. -/
structure SpStep where
  m : MatStep
  panel : List Byte
  recs : List Byte
  vals : List Byte
  tile : List (BitVec 32)
  lanes : List SpLane := []
  walk : Nat := 0
  deriving DecidableEq, Repr

structure Sparse where
  faultV : Bool := false
  faultCode : Nat := 0
  faultRow : Nat := 0
  faultChunk : Nat := 0
  faultStep : Nat := 0
  stepNo : Nat := 0
  staged : Option SpStep := none
  cur : Option SpStep := none
  cnt : Tab Nat := []
  snap : Tab Nat := []
  smpTick : Nat := 0
  deriving DecidableEq, Repr

end Sys2Proof.Machine
end

