-- ==== Sys2Proof/Machine/State.lean ====
section
/-! DEFINITION. The state of the whole Grove: plain data, every field's default its value at reset. -/

namespace Sys2Proof.Machine

/-- FN_BOLE_CAUSE_k (Table 16.3). leaf: bits [5:0]. -/
structure Cause where
  leaf : BitVec 8 := 0
  fcode : Nat := 0
  finfo : Nat := 0
  deriving DecidableEq, Repr

/-- Where a bole stands (R99, R417, R419). -/
inductive BoleUp | up | inReset | off
  deriving DecidableEq, Repr

/-- One logical bole: its program, memory, NI and units. -/
structure Bole where
  st : BoleUp := .up
  /-- State.now at which the bole reset in progress ends (Table 16.7). -/
  rstEnd : Nat := 0
  /-- The bole's program runs, from this entry address (R394, R436). -/
  running : Bool := false
  entry : Nat := 0
  cause : Cause := {}
  leaf : Leaf := {}
  ni : Ni := {}
  sched : Sched := {}
  shaper : Shaper := {}
  coll : Coll := {}
  sp : Sparse := {}
  cv : Cv := {}
  /-- What the last load of the bole's program returned. -/
  loaded : List Byte := []
  deriving DecidableEq, Repr

/-- GL_ORIGIN, GL_SIZE and GL_TAG of one NI (Table 18.10). -/
structure NiGlade where
  x0 : Nat := 0
  y0 : Nat := 0
  w : Nat := 0
  h : Nat := 0
  tag : Nat := 0
  deriving DecidableEq, Repr

/-- GL_HWA of one half and slot (Table 18.7), in MiB. -/
structure Hwa where
  base : Nat := 0
  size : Nat := 0
  deriving DecidableEq, Repr

/-- RT_ENG_MAP_e (Table 18.5). -/
structure EngMap where
  fn : Nat := 0
  ring : Nat := 0
  v : Bool := false
  deriving DecidableEq, Repr

/-- The tables with generations (Table 17.3): one copy of each view. -/
structure GenTabs where
  gen : Nat := 0
  ni : Tab NiGlade := []
  west : Tab Hwa := []
  east : Tab Hwa := []
  owner : Tab Nat := []
  vfGlade : Tab Nat := []
  engMap : Tab EngMap := [(0, ⟨0, 0, true⟩), (1, ⟨0, 1, true⟩), (2, ⟨0, 2, true⟩), (3, ⟨0, 3, true⟩)]
  budget : Tab Nat := []
  subNi : Tab Rates := []
  subLk : Tab Rates := []
  oos : BitVec 64 := 0
  deriving DecidableEq, Repr

/-- Which package-level reset holds the package (R417). -/
inductive PkgReset | none | warm | cold
  deriving DecidableEq, Repr

/-- Geometry that the repair load fixes (R19, R22, R148): skipped row by column (default 8), dead routers, and the
graft channel of each logical row (default the row's own number). -/
structure Repair where
  spare : Tab Nat := []
  dead : BitVec 8 := 0
  graft : Tab Nat := []
  deriving DecidableEq, Repr

/-- The Root's package-wide registers (Table 18.5, Table 18.7). -/
structure RootBlk where
  stand : Nat := 0
  px : Nat := 0
  py : Nat := 0
  posV : Bool := false
  width : Nat := 0
  speed : Nat := 0
  linkUp : Bool := false
  /-- State.now at the end of package bring-up: CKM counts start there (R295). -/
  upAt : Nat := 0
  /-- State.now at which power or a cold reset began the package's phase 3 (R435, R437). -/
  pwrAt : Nat := 0
  /-- Package serial number (Table 15.1): the spec gives no value (log 1). -/
  serial : Nat := 0
  ovfCeil : Nat := 3750
  zeroBusy : Bool := false
  zeroDone : Bool := false
  zeroSlot : Nat := 0
  cntLate : Cnt := {}
  lock : Bool := false
  smpTick : Nat := 0
  fuse : List Defect := []
  field : Tab Defect := []
  commitTick : Nat := 0
  commitGen : Nat := 0
  /-- TK_TICK_NUM when GL_COMMIT was written, none when no commit is pending. -/
  commitAt : Option Nat := none
  missed : Bool := false
  /-- GL_STATUS.BRINGUP. -/
  bringup : Bool := true
  /-- Units requested by each function in this window (R75). -/
  ovfUsed : Tab Nat := []
  ovfPend : List OvfPend := []
  reads : List HostRead := []
  /-- Host reads that wait for room (R404), oldest first. -/
  readWait : List HostRead := []
  nextTag : Nat := 0
  /-- The PCIe transmitter has credit for the request due (R91): a free value from request to request (log 46). -/
  credit : Bool := true
  tlps : List Tlp := []
  deriving DecidableEq, Repr

/-- A value latched by a read of a low half, by path and offset (R461). -/
structure HalfLatch where
  path : Path
  offset : Nat
  value : Nat
  deriving DecidableEq, Repr

/-- Bytes of a register wider than 64 bits that have been written and have not yet taken effect (R461). -/
structure PartReg where
  path : Path
  offset : Nat
  bytes : List Byte
  deriving DecidableEq, Repr

/-- One package (01). Boles by logical number, routers by physical position 9 * column + row. -/
structure Package where
  powered : Bool := false
  ready : Bool := false
  failed : Bool := false
  reset : PkgReset := .none
  /-- Thermal hold (R56, R417). -/
  thermal : Bool := false
  tk : TickBlk := {}
  tok : TokenBlk := {}
  rt : RootBlk := {}
  repair : Repair := {}
  comm : GenTabs := {}
  stag : GenTabs := {}
  fns : Tab Func := []
  boles : Tab Bole := []
  west : Mem := {}
  east : Mem := {}
  rtrs : Tab Router := []
  arbs : Tab Arb := []
  links : Tab Link := []
  latches : List HalfLatch := []
  parts : List PartReg := []
  deriving DecidableEq, Repr

/-- The Grove and the queue of commands that wait. Packages by 64 * Stand + package number. -/
structure State where
  stands : Tab Rootstock := []
  pkgs : Tab Package := []
  /-- CKM cycles passed (log 4). -/
  now : Nat := 0
  /-- Free values read so far: the model's own counter (log 5). -/
  freeCtr : Nat := 0
  pending : List Instr := []
  deriving DecidableEq, Repr

/-- Why a run stops for good. No meaning of this model raises one. -/
inductive Fault
  /-- Raised by no command: the spec gives every command an effect (safe). -/
  | impossible
  deriving DecidableEq, Repr

/-- Why a command is refused. -/
inductive Refusal
  /-- A command whose meaning is not written yet; raised by Dispatch alone (safe: the run stops). -/
  | notModelled (mnemonic : String)
  deriving DecidableEq, Repr

/-- The machine right after reset: nothing powered, every register at its reset value, an empty queue. -/
def State.reset : State := {}

end Sys2Proof.Machine
end

