-- ==== Sys2Proof/Machine/Ops.lean ====
section
/-! DEFINITION. Named operations on the state: parts of a package, coordinates, access checks, memory accesses. -/

namespace Sys2Proof.Machine

/-! ### Parts -/

def State.pkg (s : State) (p : Nat) : Package := s.pkgs.get {} p
def State.setPkg (s : State) (p : Nat) (P : Package) : State := { s with pkgs := s.pkgs.set p P }
def State.updPkg (s : State) (p : Nat) (f : Package → Package) : State := s.setPkg p (f (s.pkg p))
def State.stand (s : State) (n : Nat) : Rootstock := s.stands.get {} n
def State.updStand (s : State) (n : Nat) (f : Rootstock → Rootstock) : State :=
  { s with stands := s.stands.upd {} n f }
/-- Count one use of a free value (log 5). -/
def State.bump (s : State) : State := { s with freeCtr := s.freeCtr + 1 }

def Package.bole (P : Package) (k : Nat) : Bole := P.boles.get {} k
def Package.updBole (P : Package) (k : Nat) (f : Bole → Bole) : Package := { P with boles := P.boles.upd {} k f }
def Package.updRt (P : Package) (f : RootBlk → RootBlk) : Package := { P with rt := f P.rt }
def Package.rtr (P : Package) (r : Nat) : Router := P.rtrs.get {} r
def Package.updRtr (P : Package) (r : Nat) (f : Router → Router) : Package := { P with rtrs := P.rtrs.upd {} r f }
def Package.arb (P : Package) (i : Nat) : Arb := P.arbs.get (Arb.init i) i
def Package.updArb (P : Package) (i : Nat) (f : Arb → Arb) : Package := { P with arbs := P.arbs.upd (Arb.init i) i f }
def Package.link (P : Package) (l : Nat) : Link := P.links.get {} l
def Package.updLink (P : Package) (l : Nat) (f : Link → Link) : Package := { P with links := P.links.upd {} l f }
def Package.fn (P : Package) (f : Nat) : Func := P.fns.get {} f
def Package.updFn (P : Package) (f : Nat) (g : Func → Func) : Package := { P with fns := P.fns.upd {} f g }
def Func.ring (F : Func) (r : Nat) : Ring := F.rings.get {} r
def Func.updRing (F : Func) (r : Nat) (g : Ring → Ring) : Func := { F with rings := F.rings.upd {} r g }
def Package.ring (P : Package) (f r : Nat) : Ring := (P.fn f).ring r
def Package.updRing (P : Package) (f r : Nat) (g : Ring → Ring) : Package := P.updFn f fun F => F.updRing r g

def Package.tick (P : Package) : Nat := P.tk.tickNum

/-- A package that runs: powered, in no package reset and in no thermal hold (R417, R435). -/
def Package.live (P : Package) : Bool := P.powered && !P.thermal && decide (P.reset = .none)

/-- An event in a package that runs; elsewhere nothing happens (log 3). -/
def State.onLive (s : State) (p : Nat) (f : Package → Package) : State :=
  if (s.pkg p).live then s.updPkg p f else s

/-- An event in a powered package, in whatever reset it stands. -/
def State.onPowered (s : State) (p : Nat) (f : Package → Package) : State :=
  if (s.pkg p).powered then s.updPkg p f else s

/-! ### Time -/

/-- CKT cycles at State.now = now: 4 for 15 of CKM (Table 1.2). -/
def cktAt (now : Nat) : Nat := 4 * now / 15

def ppb : Nat := 1000000000

/-- Parts per billion of a unit that TK_TIME gains in a 40th of a CKT cycle: the rate correction never stops the count. -/
def TickBlk.gain (t : TickBlk) : Nat := max 1 (1000000000 + t.rate).toNat

/-- TK_TIME in parts per billion of a unit, at its last rate change and at State.now = now: 40 units per CKT cycle, as the
rate correction adjusts them (R28). -/
def TickBlk.fineBase (t : TickBlk) : Nat := t.timeBase * ppb + t.timeFrac
def TickBlk.fine (t : TickBlk) (now : Nat) : Nat := t.fineBase + 40 * (cktAt now - cktAt t.timeAt) * t.gain

/-- Units since the Grove epoch, and TK_TIME, which holds 64 bits of them. -/
def TickBlk.count (t : TickBlk) (now : Nat) : Nat := t.fine now / ppb
def TickBlk.time (t : TickBlk) (now : Nat) : Nat := t.count now % 2 ^ 64

/-- Take TK_TIME to hold a value at State.now = now (R29). -/
def TickBlk.setTime (t : TickBlk) (now v : Nat) : TickBlk := { t with timeBase := v, timeFrac := 0, timeAt := now }

/-- Count from State.now = now on, so that the rate may change; no time is lost and none is stepped (R29). -/
def TickBlk.rebase (t : TickBlk) (now : Nat) : TickBlk :=
  { t with timeBase := t.fine now / ppb, timeFrac := t.fine now % ppb, timeAt := now }

/-- Units of TK_TIME in a tick period of P microseconds, and CKM cycles in its window (R28, R40). -/
def periodUnits (P : Nat) : Nat := 16000 * P
def windowCycles (P : Nat) : Nat := 1500 * P

/-- TK_TIME of the next tick (R28). -/
def TickBlk.nextTime (t : TickBlk) : Nat := t.tickTime + periodUnits t.period

/-- State.now at which TK_TIME reaches the next tick time (R28): in the first CKM cycle after the CKT cycle that does it. -/
def TickBlk.dueAt (t : TickBlk) : Nat :=
  let want := t.nextTime * ppb
  if t.fineBase ≤ want then
    max t.timeAt (ceilDiv (15 * (cktAt t.timeAt + ceilDiv (want - t.fineBase) (40 * t.gain))) 4)
  else t.timeAt - (t.fineBase - want) * 3 / (32 * ppb)

/-- Cycle of the window at State.now = now (R40). -/
def TickBlk.cyc (t : TickBlk) (now : Nat) : Nat := t.winCyc + (now - t.winStart)

/-- The period in force from the package's last tick on: at a switch tick the next one (R39). -/
def TickBlk.periodNow (t : TickBlk) : Nat :=
  if t.switchTick ≠ 0 ∧ t.switchTick ≤ t.tickNum then t.periodNext else t.period

/-- Bole resets whose time is over end. -/
def Bole.wake (now : Nat) (b : Bole) : Bole := if b.st = .inReset ∧ b.rstEnd ≤ now then { b with st := .up } else b
def Package.wake (now : Nat) (P : Package) : Package := { P with boles := P.boles.map fun x => (x.1, x.2.wake now) }
def State.wake (s : State) : State := { s with pkgs := s.pkgs.map fun x => (x.1, x.2.wake s.now) }

/-- What passes when no command waits: one CKM cycle (DESIGN CHOICE, log 4). -/
def State.idle (s : State) : State := ({ s with now := s.now + 1 } : State).wake

/-- Where this cycle has been used, an event that takes one of its own comes in the next one (log 4). -/
def State.inCycle (s : State) (used : Bool) : State := if used then s.idle else s

/-! ### Coordinates (R18, R19, R21) -/

def Package.baseX (P : Package) : Nat := 64 * (P.rt.stand % 8) + 8 * P.rt.px
def Package.baseY (P : Package) : Nat := 64 * (P.rt.stand / 8) + 8 * P.rt.py
def Package.boleX (P : Package) (k : Nat) : Nat := P.baseX + k % 8
def Package.boleY (P : Package) (k : Nat) : Nat := P.baseY + k / 8
/-- Is (x, y) a bole of this package? -/
def Package.owns (P : Package) (x y : Nat) : Bool :=
  decide (P.baseX ≤ x ∧ x < P.baseX + 8 ∧ P.baseY ≤ y ∧ y < P.baseY + 8)
def localOf (x y : Nat) : Nat := 8 * (y % 8) + x % 8
def Package.skipped (P : Package) (c : Nat) : Nat := P.repair.spare.get 8 c
/-- Physical row of logical row ly in column c. -/
def Package.physRow (P : Package) (c ly : Nat) : Nat := if ly < P.skipped c then ly else ly + 1
/-- Physical router of logical bole k. -/
def Package.rtrOf (P : Package) (k : Nat) : Nat := 9 * (k % 8) + P.physRow (k % 8) (k / 8)
/-- Logical bole at a physical router, none at a skipped row. -/
def Package.boleAt (P : Package) (r : Nat) : Option Nat :=
  let c := r / 9
  let pr := r % 9
  let d := P.skipped c
  if pr = d then none else some (8 * (if pr < d then pr else pr - 1) + c)
/-- The NI that a router's events go to (R177, R246): its own, or that of physical row r - 1, or row 1 for row 0. -/
def Package.eventBole (P : Package) (r : Nat) : Nat :=
  match P.boleAt r with
  | some k => k
  | none => (P.boleAt (if r % 9 = 0 then r + 1 else r - 1)).getD 0

def halfOf (k : Nat) : Half := if k % 8 < 4 then .west else .east
def otherHalf : Half → Half
  | .west => .east
  | .east => .west

def Package.heart (P : Package) : Half → Mem
  | .west => P.west
  | .east => P.east
def Package.setHeart (P : Package) (h : Half) (m : Mem) : Package :=
  match h with
  | .west => { P with west := m }
  | .east => { P with east := m }

/-! ### Glades -/

def Package.glade (P : Package) (k : Nat) : NiGlade := P.comm.ni.get {} k
def Package.tagOf (P : Package) (k : Nat) : Nat := (P.glade k).tag
def NiGlade.holds (g : NiGlade) (x y : Nat) : Bool :=
  decide (g.tag ≠ 0 ∧ g.x0 ≤ x ∧ x < g.x0 + g.w ∧ g.y0 ≤ y ∧ y < g.y0 + g.h)
/-- The function that serves a glade tag: the PF for none (R381, R411). -/
def Package.fnOfTag (P : Package) (tag : Nat) : Nat :=
  if tag = 0 then 0 else
    match (List.range 16).find? fun v => P.comm.vfGlade.get 0 (v + 1) == tag with
    | some v => v + 1
    | none => 0
def Package.fnOf (P : Package) (k : Nat) : Nat := P.fnOfTag (P.tagOf k)
/-- The tag a function serves: 0 for the PF or an empty slot. RT_VF_GLADE is keyed by v. -/
def Package.tagOfFn (P : Package) (f : Nat) : Nat := if f = 0 then 0 else P.comm.vfGlade.get 0 f
/-- Boles that a function's registers show and its descriptors reach (R395, R411). -/
def Package.boleOfFn (P : Package) (f k : Nat) : Bool :=
  if f = 0 then decide (P.tagOf k = 0)
  else decide (P.tagOfFn f ≠ 0 ∧ P.tagOf k = P.tagOfFn f)
def Package.bolesOfTag (P : Package) (tag : Nat) : List Nat :=
  (List.range 64).filter fun k => decide (tag ≠ 0 ∧ P.tagOf k = tag)

def mib : Nat := 1048576
def Package.hwa (P : Package) (h : Half) (slot : Nat) : Hwa :=
  match h with
  | .west => P.comm.west.get {} slot
  | .east => P.comm.east.get {} slot
/-- R67: is [o, o + n) of a half's heartwood admitted to a requester of this glade tag (0: none)? -/
def Package.heartOk (P : Package) (tag : Nat) (h : Half) (o n : Nat) : Bool :=
  if tag = 0 then
    (List.range 16).all fun s =>
      let a := P.hwa h s
      decide (P.comm.vfGlade.get 0 (s + 1) = 0 ∨ a.size = 0 ∨ o + n ≤ mib * a.base ∨ mib * (a.base + a.size) ≤ o)
  else
    let f := P.fnOfTag tag
    let a := P.hwa h (f - 1)
    decide (f ≠ 0 ∧ mib * a.base ≤ o ∧ o + n ≤ mib * (a.base + a.size))

/-- Sum of the overflow budgets of a view (R73). -/
def budgetSum (t : Tab Nat) : Nat := ((List.range 17).map fun f => t.get 0 f).sum

/-- Budgets written one by one, as the ceiling lets them through (R73): the table, and whether one was refused. -/
def budgetFit (ceil : Nat) (t : Tab Nat) : Tab Nat × Bool :=
  (List.range 17).foldl (fun (acc : Tab Nat × Bool) f =>
    if t.get 0 f = 0 then acc
    else if ceil < budgetSum (acc.1.set f (t.get 0 f)) then (acc.1, true) else (acc.1.set f (t.get 0 f), acc.2)) ([], false)

/-! ### Local addresses (Table 1.4, Table 3.3) -/

inductive Region
  | leaf (a : Nat)
  | heart (h : Half) (o : Nat)
  | ni (o : Nat)
  | overflow (o : Nat)
  | nowhere
  deriving DecidableEq, Repr

/-- The range that holds all of [a, a + n), as bole k sees it. -/
def regionOf (k a n : Nat) : Region :=
  if a + n ≤ leafTop then .leaf a
  else if 0x01000000 ≤ a ∧ a + n ≤ 0x01010000 then .ni (a - 0x01000000)
  else if 0x40000000 ≤ a ∧ a + n ≤ 0x44000000 then .heart (halfOf k) (a - 0x40000000)
  else if 0x48000000 ≤ a ∧ a + n ≤ 0x4C000000 then .heart (otherHalf (halfOf k)) (a - 0x48000000)
  else if 0x80000000 ≤ a ∧ a + n ≤ 0x100000000 then .overflow (a - 0x80000000)
  else .nowhere

/-- Is [a, a + n) memory that an access for bole k may touch (R25, R67)? -/
def Package.memOk (P : Package) (k a n : Nat) : Bool :=
  match regionOf k a n with
  | .leaf _ => true
  | .heart h o => P.heartOk (P.tagOf k) h o n
  | _ => false

/-! ### NI counters -/

def cBADPKT := 0
def cEXPIRED := 1
def cPARTIAL := 2
def cINJREFUSED := 3
def cSCHEDLATE := 4
def cSCHEDUNCLAIMED := 5
def cSCHEDFOREIGN := 6
def cSCHEDBAD := 7
def cBSTALL := 8
def cCOMBEXPIRED := 9
def cCOMBFLUSH := 10
def cHOPCORR := 11
def cHOPBROKEN := 12
def cMEMCORR := 13
def cMEMPOISON := 14
def cECRC := 15
def cRESEND := 16
def cNOANSWER := 17
def cDUP := 18
def cDUPANSWER := 19
def cSTALE := 20
def cGAPDROP := 21
def cDEDUPFULL := 22
def cQUARANTINE := 23

def Ni.count (n : Ni) (j : Nat) (by_ : Nat := 1) : Ni :=
  if by_ = 0 then n else { n with cnt := n.cnt.upd 0 j fun v => sat32 v by_ }
def Bole.updNi (b : Bole) (f : Ni → Ni) : Bole := { b with ni := f b.ni }
def Bole.count (b : Bole) (j : Nat) (by_ : Nat := 1) : Bole := b.updNi fun n => n.count j by_
def Package.count (P : Package) (k j : Nat) (by_ : Nat := 1) : Package := P.updBole k fun b => b.count j by_

def Bole.memEv (b : Bole) (e : MemEv) : Bole := (b.count cMEMCORR e.corr).count cMEMPOISON e.pois

/-! ### Memory accesses at a bole -/

/-- Leaf accesses of bole k: the bytes, poison seen, and the package after the checks (R247). -/
def Package.leafRead (P : Package) (k a n : Nat) : List Byte × Bool × Package :=
  let (bs, p, m, e) := (P.bole k).leaf.mem.readAcc 64 a n
  (bs, p, P.updBole k fun b => ({ b with leaf := { b.leaf with mem := m } } : Bole).memEv e)

def Package.leafWrite (P : Package) (k a : Nat) (bs : List Byte) : Package :=
  let (m, e) := (P.bole k).leaf.mem.writeAcc 64 a bs
  P.updBole k fun b => ({ b with leaf := { b.leaf with mem := m } } : Bole).memEv e

def Package.heartRead (P : Package) (h : Half) (o n : Nat) : List Byte × Bool × Package :=
  let (bs, p, m, _) := (P.heart h).readAcc 128 o n
  (bs, p, P.setHeart h m)

def Package.heartWrite (P : Package) (h : Half) (o : Nat) (bs : List Byte) : Package :=
  P.setHeart h ((P.heart h).writeAcc 128 o bs).1

/-- A read of memory for bole k at a local address that memOk admits. -/
def Package.memRead (P : Package) (k a n : Nat) : List Byte × Bool × Package :=
  match regionOf k a n with
  | .leaf a => P.leafRead k a n
  | .heart h o => P.heartRead h o n
  | _ => (List.replicate n 0, false, P)

def Package.memWrite (P : Package) (k a : Nat) (bs : List Byte) : Package :=
  match regionOf k a bs.length with
  | .leaf a => P.leafWrite k a bs
  | .heart h o => P.heartWrite h o bs
  | _ => P

/-- Errors come up in the memory that an access of bole k touches (R247). -/
def Package.upset (P : Package) (k a n : Nat) (us : List (Nat × Bool)) : Package :=
  if us.isEmpty then P
  else match regionOf k a n with
    | .leaf a => P.updBole k fun b => { b with leaf := { b.leaf with mem := b.leaf.mem.upset 64 a n us } }
    | .heart h o => P.setHeart h ((P.heart h).upset 128 o n us)
    | _ => P

/-- The cycles of leaf banks of bole k in which an access to these banks meets the other side (R59). -/
def Package.contest (P : Package) (k : Nat) (touched : List Nat) (asks : List BankAsk) : Package :=
  let real := asks.filter fun x => touched.contains x.bank.val
  if real.isEmpty then P
  else P.updBole k fun b => { b with leaf := real.foldl (fun l x => (l.grant x).2) b.leaf }

/-- The same from the pipeline side, which wants each of the banks. -/
def Package.contestPipe (P : Package) (k : Nat) (touched : List Nat) (asks : List BankAsk) : Package :=
  P.contest k touched (asks.map fun x => { x with pipe := true })

/-- Poison one leaf granule at its landing, and count a change of its bit (Table 10.2). -/
def Package.leafPoison (P : Package) (k gr : Nat) : Package :=
  let (m, c) := (P.bole k).leaf.mem.setPoison gr
  P.updBole k fun b => ({ b with leaf := { b.leaf with mem := m } } : Bole).memEv { pois := if c then 1 else 0 }

/-! ### Triggered-operation counters (R334) -/

def Coll.addCtr (c : Coll) (j v : Nat) : Coll := { c with ctr := c.ctr.upd 0 j fun x => sat32 x v }
def Bole.updColl (b : Bole) (f : Coll → Coll) : Bole := { b with coll := f b.coll }
/-- Is a local address in the counter window, and of which counter? -/
def ctrWindow (a : Nat) : Option Nat :=
  if 0x01008000 ≤ a ∧ a < 0x01008800 ∧ a % 8 = 0 then some ((a - 0x01008000) / 8) else none
/-- Write a record or flag: an address in the counter window adds 1 to its counter instead (R334); 0 names none. -/
def Package.recordWrite (P : Package) (k a : Nat) (bs : List Byte) : Package :=
  match ctrWindow a with
  | some j => P.updBole k fun b => b.updColl fun c => c.addCtr j 1
  | none => if P.memOk k a bs.length then P.memWrite k a bs else P

end Sys2Proof.Machine
end

