-- ==== Sys2Proof/Machine/Flags.lean ====
section
/-! DEFINITION. The cause tree and the vector of each function (16, Table 16.1 to Table 16.4), and raising a cause. -/

namespace Sys2Proof.Machine

/-- FN_BOLE_CAUSE_k as a function reads it: 0 unless the bole is the function's (R411). -/
def Package.causeSeen (P : Package) (f k : Nat) : Cause :=
  if P.boleOfFn f k then (P.bole k).cause else {}

/-- FN_INT_BOLE (Table 16.1). -/
def Package.intBole (P : Package) (f : Nat) : List Nat :=
  (List.range 64).filter fun k => (P.causeSeen f k).leaf &&& (P.fn f).boleEn != 0

/-- FN_INT_SUMMARY (Table 16.1): bit 0 RING, 1 FUNC, 2 BOLE, 3 PKG. -/
def Package.summary (P : Package) (f : Nat) : BitVec 4 :=
  let F := P.fn f
  (if F.ringLeaf &&& F.ringEn != 0 then 1 else 0) |||
  (if F.funcLeaf &&& F.funcEn != 0 then 2 else 0) |||
  (if (P.intBole f).isEmpty then 0 else 4) |||
  (if f = 0 ∧ F.pkgLeaf &&& F.pkgEn ≠ 0 then 8 else 0)

/-- The vector is pending (R413). -/
def Package.vecPending (P : Package) (f : Nat) : Bool := P.summary f &&& BitVec.ofNat 4 (P.fn f).sumEn != 0

/-- INTA (R415): asserted by the PF alone. -/
def Package.inta (P : Package) : Bool :=
  P.vecPending 0 && !(P.fn 0).msix.enable && !(P.fn 0).intDis

/-- Bus Master Enable as R380 has it: clear in D3hot. -/
def Func.master (F : Func) : Bool := F.bme && !F.d3

/-- Send what the vector calls for (R413, R414). -/
def Package.vector (P : Package) (f : Nat) : Package :=
  let F := P.fn f
  if P.vecPending f && F.arm && F.msix.enable && F.master && !F.inReset then
    if F.msix.fmask || F.msix.vmask then
      P.updFn f fun F => { F with msix := { F.msix with pend := true } }
    else
      let P1 := P.updFn f fun F => { F with arm := false, msix := { F.msix with pend := false } }
      { P1 with rt := { P1.rt with tlps := P1.rt.tlps ++ [.msix f F.msix.addr F.msix.data] } }
  else P

/-- Package leaves of Table 16.2. -/
def pkTickUnlocked : BitVec 7 := 1
def pkTickLost : BitVec 7 := 2
def pkLinkDown : BitVec 7 := 4
def pkHoldOverrun : BitVec 7 := 8
def pkArbWatermark : BitVec 7 := 16
def pkMiscabled : BitVec 7 := 32
def pkOverspend : BitVec 7 := 64

def Package.setPkgLeaf (P : Package) (b : BitVec 7) : Package :=
  (P.updFn 0 fun F => { F with pkgLeaf := F.pkgLeaf ||| b }).vector 0

/-- Function leaves of Table 16.2. -/
def fnAbortDone : BitVec 5 := 1
def fnAbortEscalated : BitVec 5 := 2
def fnCvMismatch : BitVec 5 := 4
def fnCvStalled : BitVec 5 := 8
def fnGladeLoss : BitVec 5 := 16

def Package.setFuncLeaf (P : Package) (f : Nat) (b : BitVec 5) : Package :=
  (P.updFn f fun F => { F with funcLeaf := F.funcLeaf ||| b }).vector f

def Package.setRingLeaf (P : Package) (f r : Nat) : Package :=
  (P.updFn f fun F => { F with ringLeaf := F.ringLeaf ||| (1#16 <<< r) }).vector f

/-- Bole leaves of Table 16.3. -/
def bcFault : BitVec 8 := 1
def bcMismatch : BitVec 8 := 2
def bcStalled : BitVec 8 := 4
def bcWatermark : BitVec 8 := 8
def bcSignal : BitVec 8 := 16
def bcHalted : BitVec 8 := 32

def Package.setBoleLeaf (P : Package) (k : Nat) (b : BitVec 8) : Package :=
  let P1 := P.updBole k fun B => { B with cause := { B.cause with leaf := B.cause.leaf ||| b } }
  P1.vector (P1.fnOf k)

/-- Fault codes of Table 16.4. -/
def fcAddress := 1
def fcOutOfGlade := 2
def fcMemPoison := 3
def fcOvfRange := 4
def fcOvfUnavailable := 5
def fcOvfTimeout := 6
def fcOvfPoisoned := 7
def fcNoAnswer := 8
def fcPoisonedAnswer := 9
def fcSparse := 10
def fcAlignment := 11
def fcBadOperand := 12

/-- An operation of bole k faults: FAULT, and FCODE and FINFO of the first fault (R412). -/
def Package.fault (P : Package) (k code info : Nat) : Package :=
  let P1 := P.updBole k fun B =>
    if B.cause.leaf &&& bcFault != 0 then B
    else { B with cause := { leaf := B.cause.leaf ||| bcFault, fcode := code, finfo := info % 2 ^ 32 } }
  P1.vector (P1.fnOf k)

/-- Clear leaf bits of a bole's cause; clearing FAULT clears FCODE and FINFO (R412). -/
def Cause.clear (c : Cause) (m : BitVec 8) : Cause :=
  if m &&& bcFault != 0 then { leaf := c.leaf &&& ~~~m, fcode := 0, finfo := 0 }
  else { c with leaf := c.leaf &&& ~~~m }

/-- The value of FN_BOLE_CAUSE_k. -/
def Cause.value (c : Cause) : Nat := c.leaf.toNat + 256 * c.fcode + 2 ^ 32 * c.finfo

/-- Raise the watermark cause of a bole when a queue's monitor asks for it (R303). -/
def Package.raiseWm (P : Package) (k : Nat) (up : Bool) : Package := if up then P.setBoleLeaf k bcWatermark else P
def Package.raiseArbWm (P : Package) (up : Bool) : Package := if up then P.setPkgLeaf pkArbWatermark else P

/-- TK_STATUS (Table 18.6). -/
def TickBlk.status (t : TickBlk) : Nat :=
  (if t.locked then 1 else 0) + (if t.holdover then 2 else 0) + (if t.unlocked then 4 else 0) + (if t.lost then 8 else 0) +
  (if t.groveHoldover then 16 else 0) + (if t.groveUnlocked then 32 else 0) + (if t.switchRefused then 64 else 0)

end Sys2Proof.Machine
end

