-- ==== Sys2Proof/Machine/Power.lean ====
section
/-! DEFINITION. Time base, power tokens and the Rootstock's budget (02, 17): rows CLOCK_CHANGE_DONE to GRANDMASTER_SYNC but THERMAL_HOLD. -/

namespace Sys2Proof.Machine

/-! ### Stands -/

/-- Packages of a Stand that are in service: ready and running (R443). -/
def State.inService (s : State) (st : Nat) : List Nat :=
  (List.range 64).filter fun n => (s.pkg (64 * st + n)).live && (s.pkg (64 * st + n)).ready

/-- Change every package of a Stand. -/
def State.updStandPkgs (s : State) (st : Nat) (f : Package → Package) : State :=
  (List.range 64).foldl (fun s n => s.onPowered (64 * st + n) f) s

/-- The Grove's shape, as the lead Rootstock holds it. -/
def State.shape (s : State) (st : Nat) : Nat × Nat := ((s.stand st).w, (s.stand st).h)

/-- Is a Stand one of the Grove that Stand 0 leads? -/
def State.inGrove (s : State) (st : Nat) : Bool :=
  let (w, h) := s.shape 0
  decide (st % 8 < w ∧ st / 8 < h)

/-- The lead Rootstock of a Stand: Stand 0 within the Grove's shape, the Stand itself outside it (R453, R458). -/
def State.leadOf (s : State) (st : Nat) : Nat :=
  if s.inGrove st then 0 else st

/-- A package's key as its coordinates compose it: a Stand standing alone has sx = sy = 0 (R18). -/
def State.logKey (s : State) (key : Nat) : Nat := if s.leadOf (key / 64) = 0 then key else key % 64
/-- The package of the Grove led by ld that has this logical key. -/
def State.keyOf (s : State) (ld q : Nat) : Nat := if s.leadOf ld = 0 then q else 64 * ld + q % 64

/-- Stand that a follower Stand takes time from (Table 2.1). -/
def timeParent (st : Nat) : Nat := if st / 8 = 0 then st - 1 else st - 8

/-- A Stand and those its time passes through, Stand 0 left out. -/
def timeChain : Nat → Nat → List Nat
  | 0, _ => []
  | n + 1, st => if st = 0 then [] else st :: timeChain n (timeParent st)

/-- Stands of the Grove whose time path runs through st, itself among them. -/
def State.downstream (s : State) (st : Nat) : List Nat :=
  (List.range 32).filter fun t => s.inGrove t && (timeChain 12 t).contains st

/-- The border package of a follower Stand (Table 2.1): its package (0, 0). A Stand that stands alone has none. -/
def State.isBorder (s : State) (p : Nat) : Bool := decide (p / 64 ≠ 0 ∧ p % 64 = 0) && s.inGrove (p / 64)

/-! ### Budget (R44, R49, R55, R56) -/

def fanWatts (inlet : Nat) : Nat := if inlet ≤ 25 then 520 else if inlet ≤ 35 then 520 + 38 * (inlet - 25) else 900

def opticalModules (w h : Nat) : Nat := (if 1 < w then 64 else 0) + (if 1 < h then 64 else 0)

/-- Draw allowance D in watts. -/
def drawAllowance (fans w h host : Nat) : Nat := 12000 - 400 - 100 - fans - 300 - 100 - 8 * opticalModules w h - host

/-- Issue ceiling s in 1/16 token, rounded down (R43). -/
def issueCeiling (d p : Nat) : Nat := d * p * 8 / 5

/-- Full-activity cost of step k in a window of p microseconds, in 1/16 token, rounded up (R43, R44). -/
def stepCost (k p : Nat) : Nat := ceilDiv ((143 + 3 * k) * p * 8) 5

/-- What the issue ceiling is short of 64 step-0 costs, in 1/16 token; 0 when the configuration is admitted (R57). -/
def Rootstock.shortfall (r : Rootstock) (w h host period : Nat) : Nat :=
  64 * stepCost 0 period - issueCeiling (drawAllowance r.fans w h host) period

def Rootstock.alarm (r : Rootstock) (a : Alarm) : Rootstock := { r with alarms := r.alarms ++ [a] }

def budgetBase (s p : Nat) : Nat := min (232 * p) (s / 64)
def budgetCap (s p setting : Nat) : Nat := min setting ((s - 64 * budgetBase s p) / 64)

/-- Recompute draw, issue, base, cap and pool with n packages in service (R49, R55, R56, Table 17.6). -/
def Rootstock.compute (r : Rootstock) (n : Nat) : Rootstock :=
  let d := drawAllowance r.fans r.w r.h r.hostAllowance
  let s := issueCeiling d r.period
  let base := budgetBase s r.period
  let cap := budgetCap s r.period r.bankCapSet
  { r with draw := d, issue := s, base := base, cap := cap,
           pool := if r.inletOver then 0 else s - n * base - n * cap }

/-- Write base and cap into every package in service, for a tick two ahead (R52, R443). -/
def State.writeBase (s : State) (st : Nat) : State :=
  let r := s.stand st
  (s.inService st).foldl (fun s n => s.updPkg (64 * st + n) fun P =>
    if P.tok.bringup || (P.tok.base == r.base && P.tok.cap == r.cap) then P
    else { P with tok := { P.tok with baseNext := r.base, capNext := r.cap, nextTick := P.tick + 2 } }) s

/-! ### Step choice (R45, R46, R14) -/

def TokenBlk.available (t : TokenBlk) : Nat := t.base + t.award + t.bank

/-- The largest step not above m whose cost fits. -/
def fitStep (p avail : Nat) : Nat → Nat
  | 0 => 0
  | k + 1 => if stepCost (k + 1) p ≤ avail then k + 1 else fitStep p avail k

def TokenBlk.chosen (t : TokenBlk) (p : Nat) : Nat :=
  if t.bringup || t.floorWin then 0 else fitStep p t.available t.maxStep

/-- Set PT_STEP, and start the change of each half's clock (R14, R45). -/
def TokenBlk.select (t : TokenBlk) (p : Nat) : TokenBlk :=
  let k := t.chosen p
  { t with step := k, ckwNext := if t.ckw = k then none else some k, ckeNext := if t.cke = k then none else some k }

/-- Step at which a half's boles run: the lower of old and new until the change is complete (R14). -/
def TokenBlk.halfStep (t : TokenBlk) : Half → Nat
  | .west => match t.ckwNext with | some k => min t.ckw k | none => t.ckw
  | .east => match t.ckeNext with | some k => min t.cke k | none => t.cke

/-- PT_BANK_CAP at a tick: the next one where that tick is PT_NEXT_TICK (R49, R52, DEDUCED, log 44). -/
def TokenBlk.capAt (t : TokenBlk) (tick : Nat) : Nat := if t.nextTick = tick then t.capNext else t.cap

/-- The request of R50 over a base and a bank. -/
def TokenBlk.request (t : TokenBlk) (p base bank : Nat) : Nat := if t.burstEn then stepCost t.maxStep p - base - bank else 0

/-- Close the books of the window that ends (R46, R50), and open the next with the award held for it (R51). What the books
call spent leaves out the excess that PT_OVERSPEND counts, and a late award stands on both sides (R47, DEDUCED, log 11). -/
def TokenBlk.close (t : TokenBlk) (window p spent : Nat) : TokenBlk × Bool :=
  if t.bringup then ({ t with award := 0 }, false)
  else
    let avail := t.available
    let ovr := decide (avail < spent)
    let bank := if ovr then 0 else min (t.capAt (window + 1)) (avail - spent)
    let ret := if ovr then 0 else avail - spent - bank
    let req := t.request p t.base bank
    ({ t with
        report := some { window := window, base := t.base, award := t.award + t.lateAward, bankIn := t.bank,
                         spent := min spent avail,
                         bankOut := bank, returned := ret + t.lateAward, request := req }
        lateAward := 0
        bank := bank
        overspend := if ovr then sat32 t.overspend (spent - avail) else t.overspend
        floorWin := ovr
        award := t.awards.get 0 (window + 1)
        awards := t.awards.filter fun e => decide (window + 1 < e.1) }, ovr)

/-! ### Rows -/

def execClockChangeDone (p : PkgId) (h : Half) (s : State) : Host.Outcome State Fault Refusal :=
  .next (s.onLive p fun P =>
    let t := P.tok
    match h with
    | .west => { P with tok := { t with ckw := t.ckwNext.getD t.ckw, ckwNext := none } }
    | .east => { P with tok := { t with cke := t.ckeNext.getD t.cke, ckeNext := none } })

/-- A package that is not LOCKED slews by at most 50 ppm (R36). -/
def slewRate (free : Int) : Int := max (-50000) (min 50000 free)

/-- What one valid exchange does to the follower's tick block (R30, R36, R490). relock: a border package whose Stand is in
Grove holdover slews back under R36 in place of R490 (R35, DEDUCED, log 29). LOST ends LOCKED (DEDUCED, log 29). -/
def TickBlk.exchange (t : TickBlk) (offset : Int) (rtt : Nat) (free : Int) (relock : Bool) : TickBlk :=
  let a := offset.natAbs
  let inL := if a ≤ 16 then t.inLock + 1 else 0
  let outL := if 32 < a ∧ relock = false then t.outLock + 1 else 0
  let t1 : TickBlk := { t with offset := offset, rtt := rtt, exchSeen := true, noExch := 0, holdover := false,
                               inLock := inL, outLock := outL }
  if 4000 * t.period < a then { t1 with lost := true, lostWin := true, locked := false }
  else if t.lost then t1
  else if t.locked ∧ relock = false then
    if 4 ≤ outL then { t1 with rate := slewRate free, locked := false, unlocked := true, offHeld := true }
    else { t1 with rate := free }
  else
    let t2 : TickBlk := { t1 with rate := slewRate free }
    if 16 ≤ inL then { t2 with locked := true, unlocked := false, everLocked := true } else t2

/-- Once every package in service is LOCKED, base, cap and the first token tick go to those that have none (R443). -/
def State.firstGrant (s : State) (st : Nat) : State :=
  let ns := s.inService st
  if ns.all (fun n => (s.pkg (64 * st + n)).tk.locked) && ns.any (fun n => (s.pkg (64 * st + n)).tok.firstTick == 0) then
    let s1 := s.updStand st fun r => r.compute ns.length
    let r := s1.stand st
    ns.foldl (fun s n => s.updPkg (64 * st + n) fun P =>
      if P.tok.firstTick = 0 then
        { P with tok := { P.tok with baseNext := r.base, capNext := r.cap, nextTick := P.tick + 3, firstTick := P.tick + 3 } }
      else P) (s1.updStand st fun r => { r with granted := ns.foldl (fun m n =>
        if (s.pkg (64 * st + n)).tok.firstTick = 0 then m.set n ((s.pkg (64 * st + n)).tick + 3) else m) r.granted })
  else s

/-- GROVE_HOLDOVER and GROVE_UNLOCKED as the Rootstock writes them: GROVE_UNLOCKED raises the cause and stops the inter-Stand
scheduled plane (R35). -/
def Package.groveFlags (P : Package) (hold unl : Bool) : Package :=
  let P1 : Package := { P with tk := { P.tk with
    groveHoldover := hold, groveUnlocked := unl, interHeld := P.tk.interHeld || unl } }
  if unl then P1.setPkgLeaf pkTickUnlocked else P1

/-- The border package of st gets no time from its source: it holds over, or is out of service (R35). -/
def State.borderLost (s : State) (st : Nat) : Bool :=
  decide (st ≠ 0) && s.inGrove st && (!(s.pkg (64 * st)).live || (s.pkg (64 * st)).tk.holdover)

/-- When a border package meets the lock condition again, the Grove flags of the Stands whose time path has no lost border
package are cleared (R35). -/
def State.holdoverEnd (s : State) (p : Nat) : State :=
  let P := s.pkg p
  if s.isBorder p && P.tk.locked && decide (16 ≤ P.tk.inLock) then
    ((s.downstream (p / 64)).filter fun t => (timeChain 12 t).all fun a => !s.borderLost a).foldl
      (fun s t => (s.updStandPkgs t fun Q => Q.groveFlags false false).updStand t
        fun r => { r with timeHoldover := false, lostAt := none }) s
  else s

/-- 64 tick periods have passed without a valid inter-Stand exchange at the border package of st: by its own count, and
while it is out of service by the Rootstock's clock (R7, R35). -/
def State.borderSilent (s : State) (st : Nat) : Bool :=
  let P := s.pkg (64 * st)
  (P.live && decide (64 ≤ P.tk.noExch)) ||
    (match (s.stand st).lostAt with
     | some a => decide (a + 64 * windowCycles (s.stand st).period ≤ s.now)
     | none => false)

def execGroveHoldoverStart (st : StandIx) (s : State) : Host.Outcome State Fault Refusal :=
  if s.borderLost st then
    .next ((s.downstream st).foldl (fun s t =>
      (s.updStandPkgs t fun P => P.groveFlags true P.tk.groveUnlocked).updStand t
        fun r => { r with timeHoldover := true, lostAt := some (r.lostAt.getD s.now) }) s)
  else .next s

def execGroveUnlock (st : StandIx) (s : State) : Host.Outcome State Fault Refusal :=
  if s.borderLost st && s.borderSilent st then
    .next ((s.downstream st).foldl (fun s t => s.updStandPkgs t fun P => P.groveFlags P.tk.groveHoldover true) s)
  else .next s

/-- The last tick at a time, and its TK_TIME: whole periods from a tick of the period in force on, and before that tick from
the epoch on. The spec gives TK_TICK_NUM no value at a TK_PHASE write (DESIGN CHOICE, log 29). -/
def TickBlk.tickAtTime (t : TickBlk) (time : Nat) : Nat × Nat :=
  let u := periodUnits t.period
  if t.eraTime ≤ time then (t.eraTick + (time - t.eraTime) / u, t.eraTime + (time - t.eraTime) / u * u)
  else (time / u, time / u * u)

/-- TK_PHASE (R29). -/
def TickBlk.phase (t : TickBlk) (now time : Nat) : TickBlk :=
  if t.everLocked then t
  else
    let (n, t0) := t.tickAtTime time
    { t.setTime now time with
        tickNum := n % 2 ^ 48, tickTime := t0, winStart := now, winCyc := (time - t0) * 3 / 32, lost := false, inLock := 0 }

def execTkPhaseWrite (p : PkgId) (time : BitVec 64) (s : State) : Host.Outcome State Fault Refusal :=
  .next (s.onLive p fun P => { P with tk := P.tk.phase s.now time.toNat })

/-- The period that the last CONFIG record holds. -/
def Rootstock.cfgPeriod (r : Rootstock) : Nat :=
  r.journal.foldl (fun acc j => match j with | .config p _ _ _ _ => p | _ => acc) 20

def Rootstock.journalConfig (r : Rootstock) (period : Nat) : Rootstock :=
  { r with journal := r.journal ++ [.config period r.hostAllowance r.bankCapSet r.w r.h] }

/-- What a tick period is short of at a Stand (R57). -/
def State.periodShort (s : State) (st n : Nat) : Nat :=
  let r := s.stand st
  r.shortfall r.w r.h r.hostAllowance n

/-- TK_PERIOD_NEXT (R39); the Rootstock refuses a period that falls short and reports the shortfall (R57). -/
def State.setPeriodNext (s : State) (p n : Nat) : State :=
  let st := p / 64
  if (s.pkg p).live ∧ 8 ≤ n ∧ n ≤ 64 then
    if s.periodShort st n ≠ 0 then s.updStand st fun r => r.alarm (.configShort (s.periodShort st n))
    else
      let s1 := s.updStand st fun r => if r.cfgPeriod = n then r else r.journalConfig n
      s1.updPkg p fun P => { P with tk := { P.tk with periodNext := n } }
  else s

/-- TK_PERIOD, which the Rootstock writes while the package is brought up (R38, R57). -/
def State.setPeriod (s : State) (p n : Nat) : State :=
  if (s.pkg p).live ∧ (s.pkg p).rt.bringup = true ∧ 8 ≤ n ∧ n ≤ 64 then
    if s.periodShort (p / 64) n ≠ 0 then s.updStand (p / 64) fun r => r.alarm (.configShort (s.periodShort (p / 64) n))
    else s.updPkg p fun P => { P with tk := { P.tk with period := n } }
  else s

def execTkPeriodNextWrite (p : PkgId) (v : BitVec 32) (s : State) : Host.Outcome State Fault Refusal :=
  .next (s.setPeriodNext p (bits v.toNat 6 0))

/-- TK_SWITCH_TICK (R39). -/
def TickBlk.setSwitch (t : TickBlk) (n : Nat) : TickBlk :=
  if n = 0 ∨ t.tickNum + 2 ≤ n then { t with switchTick := n } else { t with switchRefused := true }

def execTkSwitchTickWrite (p : PkgId) (v : BitVec 48) (s : State) : Host.Outcome State Fault Refusal :=
  .next (s.onLive p fun P => { P with tk := P.tk.setSwitch v.toNat })

/-- R74. -/
def rescale (new old : Nat) (t : Tab Nat) : Tab Nat := t.map fun e => (e.1, e.2 * new / old)

def Package.ovfRescale (P : Package) (new old : Nat) : Package :=
  { P with rt := { P.rt with ovfCeil := P.rt.ovfCeil * new / old }
           comm := { P.comm with budget := rescale new old P.comm.budget }
           stag := { P.stag with budget := rescale new old P.stag.budget } }

/-- What the Rootstock reports of a package's limits (R74). -/
def Package.ovfReport (P : Package) (n : Nat) : OvfReport :=
  { pkg := n, ceil := P.rt.ovfCeil, budgets := (List.range 17).map fun f => P.comm.budget.get 0 f }

/-- An award as the new period has it: in the proportion of the pools (R39, DEDUCED, log 44). -/
def Rootstock.recut (r : Rootstock) (tokens : Nat) : Nat := tokens * r.pool / r.poolWas

/-- The Rootstock's figures for a new period: the bank-cap setting becomes 0.8 P tokens (R49, Table 18.14), and the awards
issued for windows from this tick on are recomputed. -/
def Rootstock.newPeriod (r : Rootstock) (n new tick : Nat) : Rootstock :=
  if r.period = new then r
  else
    let r1 := ({ r with period := new, bankCapSet := 64 * new / 5, poolWas := r.pool } : Rootstock).compute n
    { r1 with issued := r1.issued.map fun a => if tick ≤ a.window then { a with tokens := r1.recut a.tokens } else a }

/-- The token block at a switch tick: base, cap, bank, awards and request for the new period (R39, R49). What a smaller cap
cuts from the bank is returned in the books that have just closed. -/
def TokenBlk.newPeriod (t : TokenBlk) (r : Rootstock) (new : Nat) : TokenBlk :=
  let next : TokenBlk := { t with baseNext := r.base, capNext := r.cap }
  if t.bringup then next
  else
    let bank := min t.bank r.cap
    { next with
        base := r.base, cap := r.cap, bank := bank, award := r.recut t.award
        awards := t.awards.map fun x => (x.1, r.recut x.2)
        report := t.report.map fun q => { q with
          bankOut := bank, returned := q.returned + (q.bankOut - bank), request := t.request new r.base bank } }

/-- Banks that were compiled for another period than the new one run no more (R39). -/
def Sched.newPeriod (S : Sched) (new : Nat) : Sched :=
  if (if S.active = 2 then S.hdrB else S.hdrA).periodUs = new then S else { S with active := 0 }

/-- The era of the new period begins at the tick just past (R39). -/
def TickBlk.newPeriod (t : TickBlk) : TickBlk :=
  { t with period := t.periodNext, switchTick := 0, eraTick := t.tickNum, eraTime := t.tickTime }

def execPeriodSwitch (p : PkgId) (s : State) : Host.Outcome State Fault Refusal :=
  let P := s.pkg p
  if P.live ∧ P.tk.switchTick ≠ 0 ∧ P.tk.switchTick ≤ P.tick then
    let new := P.tk.periodNext
    let s1 := s.updStand (p / 64) fun r => r.newPeriod (s.inService (p / 64)).length new P.tick
    let r := s1.stand (p / 64)
    let s2 := s1.updPkg p fun P =>
      let P1 := P.ovfRescale new P.tk.period
      { P1 with
          tk := P.tk.newPeriod, tok := (P.tok.newPeriod r new).select new
          boles := P1.boles.map fun e => (e.1, { e.2 with sched := e.2.sched.newPeriod new }) }
    .next (s2.updStand (p / 64) fun r => { r with ovfReports := r.ovfReports ++ [(s2.pkg p).ovfReport (p % 64)] })
  else .next s

/-! ### Reports and awards (R47, R50, R51, R53) -/

/-- The two rounds of equal shares (R50): awards in package order for requests in package order. -/
def divideRound (share : Nat) (rs : List (Nat × Nat × Nat)) : List (Nat × Nat × Nat) :=
  rs.map fun (k, req, got) => (k, req, got + min (req - got) share)

def poolDivide (pool : Nat) (reqs : List (Nat × Nat)) : List (Nat × Nat) :=
  let r0 := (reqs.filter fun e => e.2 != 0).map fun (k, q) => (k, q, 0)
  let r1 := divideRound (pool / r0.length) r0
  let left := pool - (r1.map fun e => e.2.2).sum
  let short := (r1.filter fun e => decide (e.2.2 < e.2.1)).length
  (divideRound (left / short) r1).map fun (k, _, g) => (k, g)

/-- Does a package owe the Rootstock a report of this window (R443)? -/
def Rootstock.owes (r : Rootstock) (n window : Nat) : Bool :=
  decide (r.granted.get 0 n ≠ 0 ∧ r.granted.get 0 n ≤ window)

/-- When every package that owes a report of a window has reported it, or is booked as missing, the pool is divided for the
window after next (R50). -/
def State.divide (s : State) (st window : Nat) : State :=
  let r := s.stand st
  let ns := (List.range 64).filter fun n => r.owes n window
  let of (n : Nat) := r.reports.find? fun q => q.pkg == n && q.window == window
  if ns.all fun n => (of n).isSome then
    let reqs := ns.map fun n => (n, match of n with | some q => if q.missing then 0 else q.request | none => 0)
    let aw := poolDivide r.pool reqs
    s.updStand st fun r => { r with
      issued := (r.issued.filter fun a => decide (window < a.window)) ++
        (aw.filter fun e => e.2 != 0).map fun (n, g) => { pkg := n, window := window + 2, tokens := g }
      reports := r.reports.filter fun q => q.window != window
      closed := window + 1 }
  else s

/-- A window of a package enters the Rootstock's books. -/
def Rootstock.book (r : Rootstock) (q : RsReport) : Rootstock :=
  { r with reports := r.reports ++ [q], banks := r.banks.set q.pkg q.bank }

def execTokenReport (p : PkgId) (s : State) : Host.Outcome State Fault Refusal :=
  match (s.pkg p).tok.report with
  | some q =>
    if (s.pkg p).live then
      let s1 := s.updPkg p fun P => { P with tok := { P.tok with report := none } }
      let s2 := s1.updStand (p / 64) fun r => r.book
        { pkg := p % 64, window := q.window, request := q.request, spent := q.spent, bank := q.bankOut,
          returned := q.returned, missing := false }
      .next (s2.divide (p / 64) q.window)
    else .next s
  | none => .next s

/-- The highest tick that a package in service of a Stand has reached, and State.now at it. -/
def State.standTick (s : State) (st : Nat) : Nat :=
  (s.inService st).foldl (fun m n => max m (s.pkg (64 * st + n)).tick) 0
def State.standTickAt (s : State) (st : Nat) : Nat :=
  (s.inService st).foldl (fun m n => max m (s.pkg (64 * st + n)).tk.winStart) 0

/-- Tokens that a Stand has awarded a package for a window. -/
def Rootstock.awarded (r : Rootstock) (n window : Nat) : Nat :=
  ((r.issued.filter fun a => a.pkg == n && a.window == window).map fun a => a.tokens).sum

/-- The window that a package has not reported: spent in full, nothing carried out and nothing returned (R53). -/
def Rootstock.missingBooks (r : Rootstock) (n window : Nat) : RsReport :=
  { pkg := n, window := window, request := 0, spent := r.base + r.awarded n window + r.banks.get 0 n, bank := 0, returned := 0,
    missing := true }

/-- 4 us, in CKM cycles (R53). -/
def reportTime : Nat := 6000

/-- Is a report missing, 4 us after the Stand's last tick (R53)? -/
def State.reportMissing (s : State) (st n : Nat) : Bool :=
  let tick := s.standTick st
  let r := s.stand st
  decide (tick ≠ 0 ∧ s.standTickAt st + reportTime ≤ s.now) && r.owes n (tick - 1) && r.closed != tick &&
    !r.reports.any (fun q => q.pkg == n && q.window == tick - 1)

/-- The window whose books are open is the one that closed at the Stand's last tick; the package's own report, if it
still comes, is not used. A package that is not in service any more owes no later window. -/
def execTokenReportMissing (p : PkgId) (s : State) : Host.Outcome State Fault Refusal :=
  let st : Nat := p / 64
  let n : Nat := p % 64
  let window := s.standTick st - 1
  if s.reportMissing st n then
    let s1 := s.updPkg p fun P => { P with tok := { P.tok with report := none } }
    let s2 := s1.updStand st fun r => (r.book (r.missingBooks n window)).alarm (.tokenReportMissing n window)
    let s3 := if (s.inService st).contains n then s2 else s2.updStand st fun r => { r with granted := r.granted.set n 0 }
    .next (s3.divide st window)
  else .next s

/-- The award of so many tokens that has been issued to package n for a window, and has not arrived. -/
def Award.due (n window tokens : Nat) (a : Award) : Bool := a.pkg == n && a.window == window && a.tokens == tokens && !a.sent

/-- The award that the Rootstock has issued for a window reaches its package (R51). -/
def execAwardArrival (p : PkgId) (window tokens : Nat) (s : State) : Host.Outcome State Fault Refusal :=
  let st : Nat := p / 64
  let mine := Award.due (p % 64) window tokens
  match (s.stand st).issued.find? mine with
  | some a =>
    let s1 := s.updStand st fun r => { r with issued := r.issued.map fun a => if mine a then { a with sent := true } else a }
    .next (s1.onLive p fun P =>
      if P.tick < window then { P with tok := { P.tok with awards := P.tok.awards.set window a.tokens } }
      else { P with tok := { P.tok with lateAward := P.tok.lateAward + a.tokens } })
  | none => .next s

def execBaseChange (p : PkgId) (s : State) : Host.Outcome State Fault Refusal :=
  .next (s.onLive p fun P =>
    if P.tok.nextTick ≠ 0 ∧ P.tick = P.tok.nextTick then
      { P with tok := ({ P.tok with base := P.tok.baseNext, cap := P.tok.capNext } : TokenBlk).select P.tk.period }
    else P)

/-- Inlet in whole degrees, rounded up (R55). -/
def ceilDegrees (milliC : Int) : Nat := ceilDiv milliC.toNat 1000

def Rootstock.sample (r : Rootstock) (milliC : Int) (n : Nat) : Rootstock :=
  let t := ceilDegrees milliC
  let ovr := decide (35 < t)
  ({ r with inlet := t % 256, fans := fanWatts t, inletOver := ovr,
            above37 := if 37000 < milliC then r.above37 + 1 else 0,
            alarms := if ovr && !r.inletOver then r.alarms ++ [.inletOver] else r.alarms } : Rootstock).compute n

def execInletSample (st : StandIx) (milliC : Int) (s : State) : Host.Outcome State Fault Refusal :=
  let n := (s.inService st).length
  .next ((s.updStand st fun r => r.sample milliC n).writeBase st)

def execThermalHoldRelease (st : StandIx) (s : State) : Host.Outcome State Fault Refusal :=
  let r := s.stand st
  if r.thermalHold ∧ r.inlet ≤ 35 then
    .next (((List.range 64).foldl (fun s n => s.updPkg (64 * st + n) fun P => { P with thermal := false }) s).updStand st
      fun r => { r with thermalHold := false })
  else .next s

/-- Only the rate, by at most 10 ppm, and the wall-clock mapping of the lead Rootstock change (R37). -/
def execGrandmasterSync (ppb mapping : Int) (s : State) : Host.Outcome State Fault Refusal :=
  .next (s.updStand 0 fun r =>
    if r.lead then { r with rate := max (-10000) (min 10000 ppb), mapping := mapping } else r)

end Sys2Proof.Machine
end

