-- ==== Sys2Proof/Machine/Operands.lean ====
section
/-! DEFINITION. Encodings of headers, efts, packets and frames, and their check values (07, 09, 13, 14). -/

namespace Sys2Proof

open Machine

def b2n (b : Bool) : Nat := if b then 1 else 0

/-- Codes of Table 7.3. -/
def PktOp.code : PktOp → Nat
  | .write => 1 | .writeShort => 2 | .read => 3 | .atomic => 4 | .signal => 5
  | .readData => 8 | .ack => 9 | .nack => 10 | .atomicResult => 11
  | .mcast => 12 | .reduce => 13 | .eft => 14
  | .reserved c => c

def PktOp.ofCode (c : Nat) : PktOp :=
  if c = 1 then .write else if c = 2 then .writeShort else if c = 3 then .read else if c = 4 then .atomic
  else if c = 5 then .signal else if c = 8 then .readData else if c = 9 then .ack else if c = 10 then .nack
  else if c = 11 then .atomicResult else if c = 12 then .mcast else if c = 13 then .reduce
  else if c = 14 then .eft else .reserved c

/-- Virtual network of an opcode (Table 7.3); 4 for a reserved one. -/
def PktOp.vn : PktOp → Nat
  | .write | .writeShort | .read | .atomic | .signal => 0
  | .readData | .ack | .nack | .atomicResult => 1
  | .mcast | .reduce => 2
  | .eft => 3
  | .reserved _ => 4

def FType.code : FType → Nat
  | .head => 0 | .body => 1 | .tail => 2 | .single => 3

def FType.ofCode (c : Nat) : FType := if c = 0 then .head else if c = 1 then .body else if c = 2 then .tail else .single

/-- Head header as its 128-bit number (Table 7.1). -/
def Head.value (h : Head) : Nat :=
  h.ftype.code + 4 * h.vn + 16 * h.vc + 32 * b2n h.ord + 64 * b2n h.poison + 128 * b2n h.dx + 256 * b2n h.dy
  + 2 ^ 9 * h.op.code + 2 ^ 13 * h.age + 2 ^ 15 * h.dstX + 2 ^ 24 * h.dstY + 2 ^ 32 * h.srcX + 2 ^ 41 * h.srcY
  + 2 ^ 49 * h.tag + 2 ^ 64 * h.alive + 2 ^ 80 * h.loc + 2 ^ 112 * h.ecrc

def Head.ofValue (w : Nat) : Head :=
  { ftype := FType.ofCode (bits w 1 0), vn := bits w 3 2, vc := bits w 4 4, ord := bitAt w 5, poison := bitAt w 6,
    dx := bitAt w 7, dy := bitAt w 8, op := PktOp.ofCode (bits w 12 9), age := bits w 14 13,
    dstX := bits w 23 15, dstY := bits w 31 24, srcX := bits w 40 32, srcY := bits w 48 41, tag := bits w 63 49,
    alive := bits w 79 64, loc := bits w 111 80, ecrc := bits w 127 112 }

/-- Follower header (Table 7.2). -/
def Follow.value (f : Follow) : Nat :=
  (if f.last then 2 else 1) + 4 * f.vn + 16 * f.vc + 64 * b2n f.poison + 2 ^ 13 * f.age + 2 ^ 15 * f.idx

def Flit.vn (f : Flit) : Nat := match f.hdr with | .head h => h.vn | .follow g => g.vn
def Flit.vc (f : Flit) : Nat := match f.hdr with | .head h => h.vc | .follow g => g.vc
def Flit.age (f : Flit) : Nat := match f.hdr with | .head h => h.age | .follow g => g.age
def Flit.poison (f : Flit) : Bool := match f.hdr with | .head h => h.poison | .follow g => g.poison
def Flit.isHead (f : Flit) : Bool := match f.hdr with | .head _ => true | .follow _ => false
/-- A tail or a single flit. -/
def Flit.isLast (f : Flit) : Bool := match f.hdr with | .head h => decide (h.ftype = .single) | .follow g => g.last
def Flit.idx (f : Flit) : Nat := match f.hdr with | .head _ => 0 | .follow g => g.idx
def Flit.setVc (f : Flit) (c : Nat) : Flit :=
  { f with hdr := match f.hdr with | .head h => .head { h with vc := c } | .follow g => .follow { g with vc := c } }
def Flit.setPoison (f : Flit) : Flit :=
  { f with hdr := match f.hdr with
    | .head h => .head { h with poison := true } | .follow g => .follow { g with poison := true } }

/-- CRC over bytes, most significant bit first, register of w bits (CRC-16/IBM-3740 of R161). -/
def crcBit (w poly : Nat) (s : Nat) (b : Bool) : Nat :=
  let top := bitAt s (w - 1) != b
  let s' := (2 * s) % 2 ^ w
  if top then s' ^^^ poly else s'

def crcByte (w poly : Nat) (s : Nat) (b : Byte) : Nat :=
  [7, 6, 5, 4, 3, 2, 1, 0].foldl (fun s i => crcBit w poly s (bitAt b.toNat i)) s

def reflect (w v : Nat) : Nat :=
  (List.range w).foldl (fun acc i => if bitAt v i then acc + 2 ^ (w - 1 - i) else acc) 0

def crc16 (bs : List Byte) : Nat := bs.foldl (crcByte 16 0x1021) 0xFFFF

/-- CRC-32C of R350: reflected, initial value and final XOR all ones, polynomial 0x1EDC6F41. -/
def crc32c (bs : List Byte) : Nat :=
  (reflect 32 (bs.foldl (fun s b => crcByte 32 0x1EDC6F41 s (BitVec.ofNat 8 (reflect 8 b.toNat))) 0xFFFFFFFF))
    ^^^ 0xFFFFFFFF

/-- Pad or cut a payload to n bytes. -/
def padTo (n : Nat) (bs : List Byte) : List Byte := (bs.take n) ++ List.replicate (n - bs.length) 0

/-- ECRC of a packet (R161). -/
def ecrcOf (h : Head) (payload : List Byte) : Nat :=
  crc16 (leBytes 14 ({ h with vc := 0, poison := false } : Head).value ++ payload)

def payloadOf (fs : List Flit) : List Byte := fs.flatMap fun f => f.data

/-- Cut bytes into 64-byte payloads. -/
def chunks64 : Nat → List Byte → List (List Byte)
  | 0, _ => []
  | n + 1, bs => padTo 64 bs :: chunks64 n (bs.drop 64)

/-- A packet of n flits with its head, followers and ECRC; poisoned lists the flits that carry poison (R157 to R161):
POISON stands in that flit and every later one. -/
def mkPacket (h : Head) (n : Nat) (payload : List Byte) (poisoned : List Bool) : List Flit :=
  let pay := padTo (64 * n) payload
  let h1 : Head := { h with ftype := if n = 1 then .single else .head, vc := 0, poison := false }
  let h2 : Head := { h1 with ecrc := ecrcOf h1 pay, poison := poisoned.headD false }
  (chunks64 n pay).zipIdx.map fun (d, i) =>
    if i = 0 then { hdr := .head h2, data := d }
    else { hdr := .follow { last := decide (i + 1 = n), vn := h.vn, vc := 0, poison := (poisoned.take (i + 1)).any id,
                            age := h.age, idx := i }, data := d }

/-- Does a gathered packet pass its ECRC (R249)? -/
def ecrcGood (fs : List Flit) : Bool :=
  match fs with
  | { hdr := .head h, .. } :: _ => h.ecrc == ecrcOf h (payloadOf fs)
  | _ => false

def pktPoison (fs : List Flit) : Bool := fs.any Flit.poison

/-- Expired (R175), against the element's own TK_TICK_NUM. -/
def expired (tick age : Nat) : Bool := decide (2 ≤ subMod 4 tick age)

/-! ### Directions (R136) -/

/-- Direction bit from s to d in a ring of len boles: true for minus. -/
def dirOf (spans : Bool) (len s d : Nat) : Bool :=
  if s = d then false
  else if spans then
    let dist := subMod len d s
    if 2 * dist = len then decide (s % 2 = 1) else decide (len < 2 * dist)
  else decide (d < s)

/-- One step in a ring. -/
def ringStep (len x : Nat) (minus : Bool) : Nat := if minus then (x + len - 1) % len else (x + 1) % len

/-! ### Set flit (Table 9.2) and MCAST, REDUCE bodies -/

def McSet.size (m : McSet) : Nat := m.nx * m.ny
def McSet.col (m : McSet) (i : Nat) : Nat := m.x0 + i * 2 ^ m.lsx
def McSet.row (m : McSet) (j : Nat) : Nat := m.y0 + j * 2 ^ m.lsy
def McSet.cols (m : McSet) : List Nat := (List.range m.nx).map m.col
def McSet.rows (m : McSet) : List Nat := (List.range m.ny).map m.row
def McSet.colIx (m : McSet) (x : Nat) : Option Nat := (List.range m.nx).find? fun i => m.col i == x
def McSet.rowIx (m : McSet) (y : Nat) : Option Nat := (List.range m.ny).find? fun j => m.row j == y
def McSet.hasCol (m : McSet) (x : Nat) : Bool :=
  decide (m.x0 ≤ x ∧ (x - m.x0) % 2 ^ m.lsx = 0 ∧ (x - m.x0) / 2 ^ m.lsx < m.nx)
def McSet.hasRow (m : McSet) (y : Nat) : Bool :=
  decide (m.y0 ≤ y ∧ (y - m.y0) % 2 ^ m.lsy = 0 ∧ (y - m.y0) / 2 ^ m.lsy < m.ny)
def McSet.has (m : McSet) (x y : Nat) : Bool := m.hasCol x && m.hasRow y

def McSet.valid (m : McSet) : Bool :=
  decide (1 ≤ m.nx ∧ m.nx ≤ 512 ∧ 1 ≤ m.ny ∧ m.ny ≤ 256 ∧ m.lsx ≤ 8 ∧ m.lsy ≤ 7)

def McSet.inGlade (m : McSet) (g : NiGlade) : Bool :=
  m.valid && g.holds m.x0 m.y0 && g.holds (m.col (m.nx - 1)) (m.row (m.ny - 1))

/-- The set flit's payload. -/
def setFlit (m : McSet) (rtag chunk rop fmtn : Nat) (acc fast wide : Bool) (elems status contrib pruned flag : Nat) :
    List Byte :=
  padTo 64 (leBytes 2 m.x0 ++ leBytes 1 m.y0 ++ leBytes 1 (m.lsx + 16 * m.lsy) ++ leBytes 2 m.nx ++ leBytes 2 m.ny ++
    leBytes 2 rtag ++ leBytes 3 chunk ++
    leBytes 1 (rop + 4 * fmtn + 32 * b2n acc + 64 * b2n fast + 128 * b2n wide) ++
    leBytes 1 elems ++ leBytes 1 status ++ leBytes 4 contrib ++ leBytes 4 pruned ++ leBytes 4 flag)

/-- Bytes [a, a + n) of a payload as a number. -/
def fld (bs : List Byte) (a n : Nat) : Nat := leNat ((bs.drop a).take n)

def setOf (p : List Byte) : McSet :=
  { x0 := bits (fld p 0 2) 8 0, y0 := fld p 2 1, lsx := bits (fld p 3 1) 3 0, lsy := bits (fld p 3 1) 7 4,
    nx := bits (fld p 4 2) 9 0, ny := bits (fld p 6 2) 8 0 }

/-- The body of a REDUCE packet, and its key, from its flits (Table 9.1, Table 9.2). -/
def redOf (fs : List Flit) : Option (RedKey × RedBody) :=
  match fs with
  | { hdr := .head h, .. } :: sf :: rest =>
    let p := sf.data
    let m := fld p 13 1
    some ({ tag := h.tag, dstX := h.dstX, dstY := h.dstY, rtag := bits (fld p 8 2) 11 0, chunk := bits (fld p 10 3) 19 0 },
      { set := setOf p, rop := bits m 1 0, fmt := bits m 4 2, acc := bitAt m 5, fast := bitAt m 6, wide := bitAt m 7,
        elems := bits (fld p 14 1) 5 0, status := bits (fld p 15 1) 3 0, contrib := fld p 16 4, pruned := fld p 20 4,
        flag := fld p 24 4, loc := h.loc, age := h.age, vc := h.vc, poison := pktPoison fs,
        data := payloadOf rest, arrived := (fs.getLast?).elim 0 Flit.arrived })
  | _ => none

/-! ### Efts (Table 13.1) -/

def Eft.value (e : Eft) : Nat :=
  e.kind + 16 * e.inbox + 2 ^ 8 * e.dstX + 2 ^ 17 * e.dstY + 2 ^ 25 * e.srcX + 2 ^ 34 * e.srcY + 2 ^ 42 * e.group
  + 2 ^ 48 * e.word + 2 ^ 51 * e.rop + 2 ^ 54 * e.fmt + 2 ^ 56 * b2n e.dx + 2 ^ 57 * b2n e.dy + 2 ^ 58 * e.epoch
  + 2 ^ 64 * e.data.toNat

def Eft.ofValue (w : Nat) : Eft :=
  { kind := bits w 3 0, inbox := bits w 7 4, dstX := bits w 16 8, dstY := bits w 24 17, srcX := bits w 33 25,
    srcY := bits w 41 34, group := bits w 47 42, word := bits w 50 48, rop := bits w 53 51, fmt := bits w 55 54,
    dx := bitAt w 56, dy := bitAt w 57, epoch := bits w 63 58, data := BitVec.ofNat 64 (bits w 127 64) }

/-! ### Link frames and twig lane frames (Table 14.2, Table 14.3, Table 14.7) -/

def LinkFrame.header (f : LinkFrame) : Nat :=
  b2n f.null + 2 * f.seq + 2 ^ 13 * f.ack + 2 ^ 25 * f.onoff + 2 ^ 33 * f.ctl + 2 ^ 36 * f.cdata + 2 ^ 48 * f.rsv

def LinkFrame.crc (f : LinkFrame) : Nat := crc32c (leBytes 8 f.header ++ padTo 1016 f.body)

def LaneFrame.value (f : LaneFrame) : Nat :=
  4 * f.kind + 2 ^ 4 * f.seq + 2 ^ 9 * f.ack + 2 ^ 14 * f.onoff +
    2 ^ 16 * (if f.kind = 2 then f.eseq else f.eft.value)

def LaneFrame.crc (f : LaneFrame) : Nat := crc16 (leBytes 18 f.value)

/-- A dynamic-plane flit as its link flit (Table 14.4). -/
def linkFlit (f : Flit) : List Byte :=
  match f.hdr with
  | .head h => leBytes 1 1 ++ leBytes 16 h.value ++ padTo 64 f.data
  | .follow g =>
    leBytes 2 (2 + 16 * b2n g.last + 2 ^ 5 * g.vn + 2 ^ 7 * g.vc + 2 ^ 8 * b2n g.poison + 2 ^ 9 * g.age
      + 2 ^ 11 * g.idx) ++ padTo 64 f.data

/-- A scheduled flit as its link flit. -/
def linkSched (f : SchedFlit) : List Byte :=
  leBytes 4 (3 + 2 ^ 4 * f.stream + 2 ^ 14 * f.idx + 2 ^ 26 * b2n f.poison + 2 ^ 27 * b2n f.isVoid + 2 ^ 28 * f.win2)
    ++ padTo 64 f.data

namespace Machine

/-- Directions that a bole of a glade gives a packet to (dx, dy), in a Grove of W by H Stands. -/
def Package.dirs (P : Package) (W H k dx dy : Nat) : Bool × Bool :=
  let g := P.glade k
  (dirOf (decide (g.w = 64 * W)) (64 * W) (P.boleX k) dx, dirOf (decide (g.h = 64 * H)) (64 * H) (P.boleY k) dy)

end Machine

end Sys2Proof
end

