-- ==== Sys2Proof/Machine/Shaping.lean ====
section
/-! DEFINITION. Shapers, watermark and read-clear rows (12): SHAPER_FIELD_WRITE to LANE_PUSH. -/

namespace Sys2Proof.Machine

inductive Colour | green | yellow | red
  deriving DecidableEq, Repr

/-- A rate as it acts: values above 65,536 act as 65,536 (Table 18.10). -/
def rateOf (r : Nat) : Nat := min r 65536

/-- Contents after dt cycles (R293). -/
def Bucket.fill (b : Bucket) (r : Rates) (dt : Nat) : Bucket :=
  { c := min (65536 * r.cbs) (b.c + rateOf r.cir * dt), p := min (65536 * r.pbs) (b.p + rateOf r.pir * dt) }

def Bucket.full (r : Rates) : Bucket := { c := 65536 * r.cbs, p := 65536 * r.pbs }

def Bucket.limit (b : Bucket) (r : Rates) : Bucket := { c := min b.c (65536 * r.cbs), p := min b.p (65536 * r.pbs) }

/-- Colour of a two-bucket level for n flits (R290). -/
def Bucket.colour (b : Bucket) (n : Nat) : Colour :=
  if 65536 * n ≤ b.p then (if 65536 * n ≤ b.c then .green else .yellow) else .red

/-- First cycle in which a wheel with this NEXT is green (R295). -/
def wheelAt (next : Nat) : Nat := 16 * ceilDiv (ceilDiv next 16) 16

def Colour.worse : Colour → Colour → Colour
  | .red, _ | _, .red => .red
  | .green, .green => .green
  | _, _ => .yellow

def Shaper.svc (sh : Shaper) (s : Nat) : Svc := if s = 0 then sh.svc0 else sh.svc1
def Shaper.setSvc (sh : Shaper) (s : Nat) (v : Svc) : Shaper := if s = 0 then { sh with svc0 := v } else { sh with svc1 := v }

def Svc.colour (v : Svc) (n now : Nat) : Colour :=
  if v.wheel then (if wheelAt v.next ≤ now then .green else .red) else v.bucket.colour n

/-- Cycles from now until a bucket is no longer red for n flits, and the same for a service. -/
def Bucket.wait (b : Bucket) (r : Rates) (n : Nat) : Nat :=
  if 65536 * n ≤ b.p then 0 else ceilDiv (65536 * n - b.p) (max 1 (rateOf r.pir))
def Svc.wait (v : Svc) (n now : Nat) : Nat := if v.wheel then wheelAt v.next - now else v.bucket.wait v.rates n

/-- The head of a queue: its flits, and the CKM cycle from which it has stood there. -/
structure HeadAt where
  flits : Nat
  since : Nat
  deriving DecidableEq, Repr

/-- The cycles before now, from asOf on, in which a head of a service was red: from the first on, up to the second. -/
def Shaper.redSpan (sh : Shaper) (sub : Rates) (s now : Nat) (h : HeadAt) : Nat × Nat :=
  (max sh.asOf h.since, min now (sh.asOf + max (sh.sub.wait sub h.flits) ((sh.svc s).wait h.flits sh.asOf)))

/-- Cycles in one span or in either of two. -/
def spanCycles : List (Nat × Nat) → Nat
  | [] => 0
  | [x] => x.2 - x.1
  | x :: y :: _ => (x.2 - x.1) + (y.2 - y.1) - (min x.2 y.2 - max x.1 y.1)

/-- Red cycles of a service's heads since asOf (R306): one at an NI, one for each virtual channel at a link. -/
def Shaper.redCycles (sh : Shaper) (sub : Rates) (s now : Nat) (hs : List HeadAt) : Nat :=
  spanCycles (hs.map (sh.redSpan sub s now))

def Cnt.add (c : Cnt) (n : Nat) : Cnt := { c with live := sat32 c.live n }
def Cnt.tick (c : Cnt) : Cnt := { live := 0, snap := c.live }

def Svc.advance (v : Svc) (dt : Nat) (red : Nat) : Svc :=
  { v with bucket := v.bucket.fill v.rates dt, redwait := v.redwait.add red }

/-- Bring the shaper to the CKM cycle now: buckets fill, and the red cycles of the heads of its two services count. -/
def Shaper.advance (sh : Shaper) (sub : Rates) (now : Nat) (h0 h1 : List HeadAt) : Shaper :=
  if sh.en then
    let dt := now - sh.asOf
    { sh with sub := sh.sub.fill sub dt
              svc0 := sh.svc0.advance dt (sh.redCycles sub 0 now h0), svc1 := sh.svc1.advance dt (sh.redCycles sub 1 now h1)
              asOf := now }
  else { sh with asOf := now }

/-- Service level of a virtual network (Table 12.1). -/
def svcOf (vn : Nat) : Option Nat := if vn = 0 then some 0 else if vn = 2 then some 1 else none

/-- Colour of a packet of n flits on a virtual network, the shaper standing at cycle now (R289, R290). -/
def Shaper.colour (sh : Shaper) (vn n now : Nat) : Colour :=
  if sh.en then
    match svcOf vn with
    | some s => (sh.sub.colour n).worse ((sh.svc s).colour n now)
    | none => .green
  else .green

/-- Admission: debit of R292, NEXT of R295, counters of R306. -/
def Shaper.debit (sh : Shaper) (vn n now : Nat) : Shaper :=
  if sh.en then
    match svcOf vn with
    | none => sh
    | some s =>
      let col := sh.colour vn n now
      let debit (b : Bucket) : Bucket :=
        { c := if col = .green then b.c - 65536 * n else b.c, p := b.p - 65536 * n }
      let v := sh.svc s
      let v1 : Svc := if v.wheel then { v with next := max v.next (16 * now) + n * v.spacing } else { v with bucket := debit v.bucket }
      let v2 : Svc := if col = .green then { v1 with green := v1.green.add n } else { v1 with yellow := v1.yellow.add n }
      ({ sh with sub := debit sh.sub } : Shaper).setSvc s v2
  else sh

/-- The conditions of R294 on a level. -/
def Rates.good (r : Rates) : Bool :=
  decide (rateOf r.cir ≤ rateOf r.pir ∧ 1024 ≤ rateOf r.pir ∧ 32 ≤ r.cbs ∧ r.cbs ≤ r.pbs ∧ r.pbs ≤ 4095)

/-- Configuration of a service with the writes that wait for the tick. -/
def Shaper.cfg (sh : Shaper) (s : Nat) : Bool × Rates × Nat :=
  let v := sh.svc s
  (if s = 0 then sh.next0 else sh.next1).getD (v.wheel, v.rates, v.spacing)

def Shaper.keep (sh : Shaper) (s : Nat) (c : Bool × Rates × Nat) : Shaper :=
  if c.2.1.good && decide (16 ≤ c.2.2 ∧ c.2.2 ≤ 8191) then
    (if s = 0 then { sh with next0 := some c } else { sh with next1 := some c })
  else { sh with badCfg := true }

def Svc.apply (v : Svc) : Option (Bool × Rates × Nat) → Svc
  | some (w, r, sp) => { v with wheel := w, rates := r, spacing := sp, bucket := v.bucket.limit r }
  | none => v

def Svc.tick (v : Svc) : Svc := { v with green := v.green.tick, yellow := v.yellow.tick, redwait := v.redwait.tick }

/-- The tick at a shaper that stands at cycle now: kept writes take effect, counters close (R294, R305, R306). -/
def Shaper.tick (sh : Shaper) (sub : Rates) (tickNum : Nat) : Shaper :=
  { sh with svc0 := (sh.svc0.apply sh.next0).tick, svc1 := (sh.svc1.apply sh.next1).tick,
            sub := sh.sub.limit sub, subOld := none, next0 := none, next1 := none, smpTick := tickNum }

/-! ### Places -/

/-- CKM cycles since package bring-up. -/
def Package.ckm (P : Package) (now : Nat) : Nat := now - P.rt.upAt

/-- Flits of a request's packet (Table 7.3): one, but for a WRITE. -/
def reqFlits (q : Push) (granules : Nat) : Nat := if q.op = .write then max 1 granules else 1

/-- Flits of the packet that an injection-queue entry becomes. -/
def InjEntry.flits (e : InjEntry) : Nat :=
  match e.what with
  | .req q n => reqFlits q n
  | .pkt fs => fs.length

/-- The resend that is due and may still leave: the next of a burst that has begun, else the earliest, in ascending ALIVE
order (R254). -/
def Ni.dueReq (n : Ni) (tick : Nat) : Option ReqRec :=
  let may (r : ReqRec) : Bool := !r.resent && (match r.due with | some d => decide (tick ≤ d) | none => false)
  match n.reqs.find? fun r : ReqRec => r.burst && may r with
  | some r => some r
  | none => n.reqs.find? may

/-- The packet at the head of an injection queue, a due resend before the queue's own entry: none while the flits of the
packet before it leave (R306). -/
def Package.niHead (P : Package) (k vn : Nat) : List HeadAt :=
  let n := (P.bole k).ni
  let at_ := n.headFrom.get 0 vn
  if !(n.inj.get [] vn).isEmpty then []
  else match if vn = 0 then n.dueReq P.tick else none with
    | some r => [{ flits := reqFlits r.q r.granules, since := P.ckm at_ }]
    | none => match n.q.get [] vn with
      | x :: _ => [{ flits := x.flits, since := P.ckm (max at_ x.pushedAt) }]
      | [] => []

/-- Subscriber rates in force at a shaper: until the next tick, those before a write of the committed copy (R294). -/
def Shaper.subIn (sh : Shaper) (r : Rates) : Rates := sh.subOld.getD r

def Package.niAdvance (P : Package) (k now : Nat) : Package :=
  let sub := (P.bole k).shaper.subIn (P.comm.subNi.get {} k)
  let h0 := P.niHead k 0
  let h1 := P.niHead k 2
  P.updBole k fun b => { b with shaper := b.shaper.advance sub (P.ckm now) h0 h1 }

/-- Flits of the first packet in a buffer, as far as they are there. -/
def firstPkt : List Flit → Nat
  | [] => 0
  | f :: fs => if f.isLast then 1 else 1 + firstPkt fs

/-- The side whose head packet the adapter takes up next on a channel. -/
def Link.nextSide (L : Link) (ch : Nat) : Option Nat :=
  ([(L.egLast.get 1 ch + 1) % 2, L.egLast.get 1 ch % 2]).find? fun side => match L.eg.get [] (8 * side + ch) with
    | f :: _ => f.isHead
    | [] => false

/-- The packet at the head of a channel that has not been presented. -/
def Package.lkHead (P : Package) (l ch : Nat) : List HeadAt :=
  let L := P.link l
  if L.egOpen.get false ch then []
  else match L.nextSide ch with
    | some side => [{ flits := firstPkt (L.eg.get [] (8 * side + ch)), since := P.ckm (L.headAt.get 0 ch - 1) }]
    | none => []

def Package.lkAdvance (P : Package) (l now : Nat) : Package :=
  let sub := (P.link l).shaper.subIn (P.comm.subLk.get {} l)
  let h (s : Nat) : List HeadAt := P.lkHead l (4 * s) ++ P.lkHead l (4 * s + 1)
  P.updLink l fun L => { L with shaper := L.shaper.advance sub (P.ckm now) (h 0) (h 1) }

/-- Bring every shaper of the package to the cycle now. -/
def Package.advanceAll (P : Package) (now : Nat) : Package :=
  (List.range 16).foldl (fun P l => P.lkAdvance l now) ((List.range 64).foldl (fun P k => P.niAdvance k now) P)

def Package.shaper (P : Package) : ShSite → Shaper
  | .ni k => (P.bole k).shaper
  | .link l => (P.link l).shaper

def Package.updShaper (P : Package) (site : ShSite) (f : Shaper → Shaper) : Package :=
  match site with
  | .ni k => P.updBole k fun b => { b with shaper := f b.shaper }
  | .link l => P.updLink l fun L => { L with shaper := f L.shaper }

def Package.shAdvance (P : Package) (site : ShSite) (now : Nat) : Package :=
  match site with
  | .ni k => P.niAdvance k now
  | .link l => P.lkAdvance l now

def GenTabs.subRates (g : GenTabs) : ShSite → Rates
  | .ni k => g.subNi.get {} k
  | .link l => g.subLk.get {} l

def GenTabs.setSubRates (g : GenTabs) (site : ShSite) (r : Rates) : GenTabs :=
  match site with
  | .ni k => { g with subNi := g.subNi.set k r }
  | .link l => { g with subLk := g.subLk.set l r }

/-- One of the two copies, and a change of it; the committed copy accepts one only during bring-up (R452, R463). -/
def Package.view (P : Package) : View → GenTabs
  | .committed => P.comm
  | .staged => P.stag

def Package.viewOpen (P : Package) (v : View) : Bool := decide (v = .staged) || P.rt.bringup

def Package.updView (P : Package) (v : View) (f : GenTabs → GenTabs) : Package :=
  match v with
  | .committed => if P.rt.bringup then { P with comm := f P.comm } else P
  | .staged => { P with stag := f P.stag }

/-- A lane-weight write: a nibble of 0 is ignored (R299, Table 18.10). -/
def laneWrite (old v : Nat) : Nat :=
  ((List.range 8).map fun l =>
    let n := bits v (4 * l + 3) (4 * l)
    (if n = 0 then bits old (4 * l + 3) (4 * l) else n) * 16 ^ l).sum

def withCir (r : Rates) (v : Nat) : Rates := { r with cir := bits v 16 0 }
def withPir (r : Rates) (v : Nat) : Rates := { r with pir := bits v 16 0 }
def withBs (r : Rates) (v : Nat) : Rates := { r with cbs := bits v 11 0, pbs := bits v 27 16 }

/-- A subscriber field of one view: refused with BADCFG when the level would break R294. A kept write of the committed copy
takes effect at the next tick. -/
def Package.subWrite (P : Package) (site : ShSite) (view : View) (f : Rates → Rates) : Package :=
  let old := (P.view view).subRates site
  let r := f old
  if !P.viewOpen view then P
  else if r.good then
    let P1 := P.updView view fun g => g.setSubRates site r
    if view = .committed then P1.updShaper site fun sh => { sh with subOld := some (sh.subIn old) } else P1
  else P.updShaper site fun sh => { sh with badCfg := true }

def Package.svcWrite (P : Package) (site : ShSite) (s : Nat) (f : Bool × Rates × Nat → Bool × Rates × Nat) : Package :=
  P.updShaper site fun sh => sh.keep s (f (sh.cfg s))

/-- A write of one shaper field (R294). -/
def Package.shaperField (P : Package) (site : ShSite) (fld : ShField) (view : View) (n : Nat) : Package :=
  match fld with
  | .subCir => P.subWrite site view fun r => withCir r n
  | .subPir => P.subWrite site view fun r => withPir r n
  | .subBs => P.subWrite site view fun r => withBs r n
  | .cfg i => P.svcWrite site i fun (_, r, sp) => (bitAt n 0, r, sp)
  | .cir i => P.svcWrite site i fun (w, r, sp) => (w, withCir r n, sp)
  | .pir i => P.svcWrite site i fun (w, r, sp) => (w, withPir r n, sp)
  | .bs i => P.svcWrite site i fun (w, r, sp) => (w, withBs r n, sp)
  | .spacing i => P.svcWrite site i fun (w, r, _) => (w, r, bits n 12 0)
  | .laneW => P.updShaper site fun sh => { sh with laneW := laneWrite sh.laneW n }

def execShaperFieldWrite (p : PkgId) (site : ShSite) (fld : ShField) (view : View) (v : BitVec 32) (s : State) :
    Host.Outcome State Fault Refusal :=
  .next (s.onLive p fun P => P.shaperField site fld view v.toNat)

/-- A shaper whose subscriber changes: the subscriber's bucket is full, and the service fields hold their reset values until
the new glade's driver writes them (R293, R300; corners of 12). The counters and their samples stay. -/
def Shaper.newOwner (sh : Shaper) (sub : Rates) : Shaper :=
  let fresh (v : Svc) : Svc := { green := v.green, yellow := v.yellow, redwait := v.redwait }
  { sub := Bucket.full sub, svc0 := fresh sh.svc0, svc1 := fresh sh.svc1, asOf := sh.asOf, smpTick := sh.smpTick }

/-- The subscriber's rates of a new generation, at its commit tick: the bucket is limited to its depth (R294, R300). -/
def Shaper.newRates (sh : Shaper) (sub : Rates) : Shaper := { sh with sub := sh.sub.limit sub, subOld := none }

/-- Every bucket full (R293). -/
def Shaper.fillAll (sh : Shaper) (sub : Rates) : Shaper :=
  { sh with sub := Bucket.full sub
            svc0 := { sh.svc0 with bucket := Bucket.full sh.svc0.rates }
            svc1 := { sh.svc1 with bucket := Bucket.full sh.svc1.rates } }

/-- SH_CTRL.EN (R289, R293). -/
def Package.shEnable (P : Package) (site : ShSite) (en : Bool) (now : Nat) : Package :=
  let P1 := P.shAdvance site now
  let sub := P1.comm.subRates site
  P1.updShaper site fun sh =>
    if en && !sh.en then ({ sh with en := true } : Shaper).fillAll (sh.subIn sub) else { sh with en := en }

def execShCtrlEnable (p : PkgId) (site : ShSite) (en : Bool) (s : State) : Host.Outcome State Fault Refusal :=
  .next (s.onLive p fun P => P.shEnable site en s.now)

/-! ### Watermarks -/

def Package.mon (P : Package) : WmSel → QMon
  | .inj k v => (P.bole k).ni.qmon.get {} v
  | .inbox k i => ((P.bole k).coll.inbox.get {} i).mon
  | .arb i => (P.arb i).qmon

def Package.depthOf (P : Package) : WmSel → Nat
  | .inj k v => min 32 ((P.bole k).ni.q.get [] v).length
  | .inbox k i => ((P.bole k).coll.inbox.get {} i).q.length
  | .arb i => (P.arb i).q.length

def Package.setMon (P : Package) (w : WmSel) (m : QMon) : Package :=
  match w with
  | .inj k v => P.updBole k fun b => b.updNi fun n => { n with qmon := n.qmon.set v m }
  | .inbox k i => P.updBole k fun b => b.updColl fun c => { c with inbox := c.inbox.upd {} i fun x => { x with mon := m } }
  | .arb i => P.updArb i fun a => { a with qmon := m }

def Package.raiseMon (P : Package) (w : WmSel) (up : Bool) : Package :=
  match w with
  | .inj k _ => P.raiseWm k up
  | .inbox k _ => P.raiseWm k up
  | .arb _ => P.raiseArbWm up

/-- A write of a watermark register (R302, R303). -/
def Package.wmWrite (P : Package) (w : WmSel) (v : Nat) : Package :=
  let m := P.mon w
  let (wm, up) := m.wm.write v (P.depthOf w)
  (P.setMon w { m with wm := wm, start := none }).raiseMon w up

def execWatermarkWrite (p : PkgId) (w : WmSel) (v : BitVec 32) (s : State) : Host.Outcome State Fault Refusal :=
  .next (s.onLive p fun P => P.wmWrite w v.toNat)

/-! ### Reads that clear (R8, Table 0.3) -/

def Package.cvOf (P : Package) : CvUnit → Cv
  | .bole k => (P.bole k).cv
  | .root f => (P.fn f).cv

def Package.updCv (P : Package) (u : CvUnit) (f : Cv → Cv) : Package :=
  match u with
  | .bole k => P.updBole k fun b => { b with cv := f b.cv }
  | .root j => P.updFn j fun F => { F with cv := f F.cv }

/-- The value of an RC field. -/
def Package.rcValue (P : Package) : RcSel → Nat
  | .overspend => P.tok.overspend
  | .cvMatch u => (P.cvOf u).cntMatch
  | .cvMismatch u => (P.cvOf u).cntMismatch
  | .wmCount w => (P.mon w).wm.count

def Package.rcClear (P : Package) : RcSel → Package
  | .overspend => { P with tok := { P.tok with overspend := 0 } }
  | .cvMatch u => P.updCv u fun c => { c with cntMatch := 0 }
  | .cvMismatch u => P.updCv u fun c => { c with cntMismatch := 0 }
  | .wmCount w => P.setMon w (let m := P.mon w; { m with wm := { m.wm with count := 0 }, start := none })

end Sys2Proof.Machine
end

