-- ==== Sys2Proof/Machine/NiCore.lean ====
section
/-! DEFINITION. Shared operations of the NI's dynamic plane: injection queues, requests and their records, packets
gathered at ejection (07, 10). -/

namespace Sys2Proof

/-- Flits of a request's answer. -/
def Push.answerFlits (q : Push) : Nat := if q.op = .read then bits (fld q.body 4 1) 4 0 + 1 else 1

def Push.fetching (q : Push) : Bool := decide (q.op = .atomic) && bitAt (fld q.body 1 1) 0

/-- Granules that a WRITE push carries. -/
def Push.granules (q : Push) : Nat := ceilDiv q.len 64

/-- The payload of a single-flit request but WRITE_SHORT: bytes that Table 7.4 does not name are 0 (R163). -/
def Push.payload (q : Push) : List Byte :=
  let b (a n : Nat) : List Byte := Machine.leBytes n (fld q.body a n)
  match q.op with
  | .read => b 0 4 ++ Machine.leBytes 1 (bits (fld q.body 4 1) 4 0)
  | .atomic => b 0 1 ++ Machine.leBytes 1 (bits (fld q.body 1 1) 0 0) ++ Machine.leBytes 2 0 ++ b 4 4 ++ b 8 8 ++ b 16 8
  | .signal => b 0 2 ++ Machine.leBytes 2 0 ++ b 4 4
  | _ => q.body

/-- A read finds no fault of the VN and VC code, which travels with a flit on links and channels only (R242). -/
def HopEvent.ofRead (ev : HopEvent) : HopEvent := { ev with codeBad := false }

/-- The packet of one flit that carries a tick-sync eft, with tag 0 (R142, R309). -/
def Flit.tickSync (f : Flit) : Bool :=
  match f.hdr with
  | .head h => decide (h.tag = 0 ∧ h.op = .eft) && f.isLast && decide ((Eft.ofValue (Machine.leNat (f.data.take 16))).kind = 9)
  | .follow _ => false

end Sys2Proof

namespace Sys2Proof.Machine

/-- What an operation of one package needs of the rest: the cycle and the Grove's shape. -/
structure Env where
  now : Nat
  w : Nat
  h : Nat
  deriving DecidableEq, Repr

def State.env (s : State) (p : Nat) : Env := { now := s.now, w := (s.shape (p / 64)).1, h := (s.shape (p / 64)).2 }

def Package.up (P : Package) (k : Nat) : Bool := decide ((P.bole k).st = .up)

/-- An event at a bole that is up, in a package that runs. -/
def State.onBole (s : State) (p k : Nat) (f : Env → Package → Package) : State :=
  if (s.pkg p).live && (s.pkg p).up k then s.updPkg p (f (s.env p)) else s

/-- An access or an instruction of a bole's program, which runs. -/
def State.onProg (s : State) (p k : Nat) (f : Env → Package → Package) : State :=
  if (s.pkg p).live && (s.pkg p).up k && ((s.pkg p).bole k).running then s.updPkg p (f (s.env p)) else s

/-! ### Injection queues (R180, R186, R187) -/

/-- Entries of a queue. Hardware pushes that wait for a free entry follow them in the list. -/
def Ni.depth (n : Ni) (v : Nat) : Nat := min 32 (n.q.get [] v).length

def Ni.sample (n : Ni) (v now : Nat) : Ni × Bool :=
  let (m, up) := (n.qmon.get {} v).depth now (some 32) (n.depth v)
  ({ n with qmon := n.qmon.set v m }, up)

/-- Take the depth of a queue after a change, and raise the watermark cause (R302, R303). -/
def Package.sampleQ (P : Package) (k v now : Nat) : Package :=
  let (n, up) := (P.bole k).ni.sample v now
  (P.updBole k fun b => { b with ni := n }).raiseWm k up

/-- A push comes in this cycle, accepted or refused: a pop of the same queue comes in a later one (R186). -/
def Ni.pushing (n : Ni) (v now : Nat) : Ni := { n with qmon := n.qmon.upd {} v fun m => { m with pushCyc := some now } }

/-- Push an entry, or let it wait behind the queue. -/
def Package.pushQ (P : Package) (e : Env) (k v : Nat) (x : InjEntry) : Package :=
  (((P.niAdvance k e.now).updBole k fun b => b.updNi fun n =>
    { n.pushing v e.now with q := n.q.upd [] v fun q => q ++ [{ x with pushedAt := e.now }] }).sampleQ k v e.now)

/-- Pop the head: its delay ends (R304), and a push that waited becomes an entry. -/
def Ni.popQ (n : Ni) (v now : Nat) : Ni :=
  match n.q.get [] v with
  | [] => n
  | x :: rest =>
    let rest' := rest.zipIdx.map fun (y, i) => if i = 31 then ({ y with pushedAt := now } : InjEntry) else y
    { n with q := n.q.set v rest', qmon := n.qmon.upd {} v fun m => m.left (now - x.pushedAt) }

/-! ### Operations of a bole (R170) -/

def Ni.settle (n : Ni) : Ni :=
  let over_ (o : NiOp) : Bool := o.unsent = 0 && o.awaiting = 0
  { n with ops := n.ops.filter fun o => !over_ o
           doneOps := n.doneOps ++ ((n.ops.filter fun o => over_ o && !o.faulted).map fun o : NiOp => o.id) }

def Ni.newOp (n : Ni) (reqs : Nat) (chain : Option Nat := none) : Ni :=
  ({ n with nextOp := n.nextOp + 1, ops := n.ops ++ [{ id := n.nextOp, unsent := reqs, awaiting := 0, chain := chain }] } : Ni).settle

def Ni.updOp (n : Ni) (id : Nat) (f : NiOp → NiOp) : Ni :=
  ({ n with ops := n.ops.map fun o => if o.id = id then f o else o } : Ni).settle

def Ni.opSent (n : Ni) (id : Nat) : Ni := n.updOp id fun o => { o with unsent := o.unsent - 1, awaiting := o.awaiting + 1 }
def Ni.opAnswered (n : Ni) (id : Nat) (faulted : Bool) : Ni :=
  n.updOp id fun o => { o with awaiting := o.awaiting - 1, faulted := o.faulted || faulted }

/-- One more answer of an operation; one that completes without a fault adds to the counter that its action names (R335). -/
def Package.opEnds (P : Package) (k id : Nat) (faulted : Bool) : Package :=
  let n := (P.bole k).ni.opAnswered id faulted
  let chain := ((P.bole k).ni.ops.find? fun o : NiOp => o.id == id).bind fun o => o.chain
  let P1 := P.updBole k fun b => { b with ni := n }
  match chain with
  | some j => if n.doneOps.contains id then P1.updBole k fun b => b.updColl fun c => c.addCtr (j % 256) 1 else P1
  | none => P1

/-! ### Building packets (R158 to R163) -/

/-- A head for a packet that bole k sends: its tag, its position, its directions. -/
def Package.mkHead (P : Package) (e : Env) (k : Nat) (op : PktOp) (dx dy loc : Nat) (ord : Bool) (alive : Nat) : Head :=
  let (mx, my) := P.dirs e.w e.h k dx dy
  { ftype := .head, vn := op.vn, vc := 0, ord := ord, poison := false, dx := mx, dy := my, op := op, age := P.tick % 4,
    dstX := dx, dstY := dy, srcX := P.boleX k, srcY := P.boleY k, tag := P.tagOf k, alive := alive, loc := loc, ecrc := 0 }

/-- The flits of a packet with the AGE of its own injection; each flit keeps its poison. -/
def restamp (fs : List Flit) (age : Nat) : List Flit :=
  match fs with
  | { hdr := .head h, .. } :: _ => mkPacket { h with age := age } fs.length (payloadOf fs) (fs.map Flit.poison)
  | _ => fs

/-- The flits of a request of bole k; a WRITE or WRITE_SHORT reads its payload from leaf memory now (R252, R496). kept: what a
WRITE_SHORT carried when it was first sent. LOCAL of a SIGNAL is 0 (Table 7.3). -/
def Package.buildReq (P : Package) (e : Env) (k : Nat) (q : Push) (granules alive : Nat)
    (kept : Option (List Byte × Bool) := none) : List Flit × Package :=
  let h := P.mkHead e k q.op q.dstX q.dstY (if q.op = .signal then 0 else q.loc) q.ord alive
  if q.op = .write then
    let (bs, _, P1) := P.leafRead k q.src (64 * granules)
    let ps := (List.range granules).map fun i => (P1.bole k).leaf.mem.poisoned 64 (q.src + 64 * i) 64
    (mkPacket h granules bs ps, P1)
  else if q.op = .writeShort then
    match kept with
    | some (bs, p) => (mkPacket h 1 bs [p], P)
    | none =>
      let (bs, p, P1) := P.leafRead k q.src q.len
      (mkPacket h 1 (padTo 56 bs ++ leBytes 1 q.len) [p], P1)
  else (mkPacket h 1 q.payload [], P)

/-! ### Ejection and reassembly (R172, R179, R184, R223) -/

/-- A receiver's off state at an occupancy (R172). -/
def bufOff (graft : Bool) (prev : Bool) (occ : Nat) : Bool :=
  let hi := if graft then 28 else 10
  let lo := if graft then 20 else 6
  if hi ≤ occ then true else if occ ≤ lo then false else prev

/-- Flits of one VN in the reassembly buffer, and its slots; VN3 has none. -/
def Ni.rxUsed (n : Ni) (vn : Nat) : Nat := ((n.rx.filter fun p : RxPkt => p.vn == vn).map fun p : RxPkt => p.flits.length).sum
def rxSlots (vn : Nat) : Nat := if vn = 0 then 128 else if vn = 1 then 128 else if vn = 2 then 64 else 0

/-- Add a follower to the packet open on its virtual channel: the last one that is not whole. -/
def addFollow (vn vc : Nat) (f : Flit) : List RxPkt → List RxPkt
  | [] => []
  | p :: ps =>
    if p.vn = vn ∧ p.vc = vc ∧ p.whole = false ∧ !(ps.any fun r : RxPkt => r.vn == vn && r.vc == vc && !r.whole) then
      { p with flits := p.flits ++ [f], whole := f.isLast } :: ps
    else p :: addFollow vn vc f ps

def Ni.landFlit (n : Ni) (vn vc : Nat) (f : Flit) : Ni :=
  if f.isHead then { n with rx := n.rx ++ [{ vn := vn, vc := vc, flits := [f], whole := f.isLast }] }
  else { n with rx := addFollow vn vc f n.rx }

/-- The head flit of one ejection buffer lands when a slot is free. -/
def Ni.landOne (n : Ni) (ch : Nat) : Ni :=
  match n.ej.get [] ch with
  | [] => n
  | f :: fs =>
    if n.rxUsed (ch / 2) < rxSlots (ch / 2) then ({ n with ej := n.ej.set ch fs } : Ni).landFlit (ch / 2) (ch % 2) f else n

def Ni.landMany (n : Ni) : Nat → Nat → Ni
  | 0, _ => n
  | m + 1, ch => (n.landOne ch).landMany m ch

/-- Count and record a malformed packet (R165). -/
def Ni.badPacket (n : Ni) (h : Head) : Ni :=
  let n1 := n.count cBADPKT
  if n1.badPktV then n1 else { n1 with badPkt := h.value, badPktV := true }

def RxPkt.head? (p : RxPkt) : Option Head :=
  match p.flits with
  | { hdr := .head h, .. } :: _ => some h
  | _ => none

/-- A whole packet whose opcode no row takes: reserved, or on another network (R165). -/
def RxPkt.foreign (p : RxPkt) : Bool :=
  p.whole && (match p.head? with | some h => h.op.vn != p.vn | none => true)

def Ni.dropForeign (n : Ni) : Ni :=
  let bad : List RxPkt := n.rx.filter RxPkt.foreign
  bad.foldl (fun n p => match p.head? with | some h => n.badPacket h | none => n)
    { n with rx := n.rx.filter fun p : RxPkt => !p.foreign }

/-- Everything that can land lands; each ejection buffer's off state follows. -/
def Ni.landAll (n : Ni) : Ni :=
  let n1 := ((List.range 6).foldl (fun n ch => n.landMany 16 ch) n).dropForeign
  { n1 with ejOff := (List.range 8).foldl (fun t ch => t.set ch (bufOff false (t.get false ch) (n1.ej.get [] ch).length)) n1.ejOff }

/-- A packet of which a quarantined NI counts the discard (R265): a VN0 request, or an MCAST packet. -/
def countsQuarantined (f : Flit) : Bool :=
  match f.hdr with
  | .head h => decide (h.vn = 0 ∨ h.op = .mcast)
  | .follow _ => false

/-- A flit reaches the ejection port of bole k: discarded while the bole is in reset or powered down (R179); a quarantined NI
counts each packet that it discards so (R265). -/
def Package.eject (P : Package) (k ch : Nat) (f : Flit) : Package :=
  if P.up k then P.updBole k fun b => b.updNi fun n => ({ n with ej := n.ej.upd [] ch fun l => l ++ [f] } : Ni).landAll
  else if (P.bole k).ni.quarantine.isSome && countsQuarantined f then P.updBole k fun b => b.count cQUARANTINE
  else P

/-- Are two packets from one source, on one network? -/
def RxPkt.sameSrc (p q : RxPkt) : Bool :=
  p.vn == q.vn && (match p.head?, q.head? with
    | some a, some b => a.srcX == b.srcX && a.srcY == b.srcY
    | _, _ => false)

/-- Packets that no earlier packet of their source and network precedes: they are carried out in the order in which they
arrived (R171). -/
def leadersOf : List RxPkt → List RxPkt → List RxPkt
  | _, [] => []
  | seen, p :: ps => (if seen.any p.sameSrc then [] else [p]) ++ leadersOf (seen ++ [p]) ps

/-- The oldest whole packet of an opcode that no packet of its source precedes, and the NI without it. -/
def Ni.take (n : Ni) (op : PktOp) : Option (Head × List Flit × Ni) :=
  match (leadersOf [] n.rx).find? fun p : RxPkt => p.whole && (match p.head? with | some h => decide (h.op = op) | none => false) with
  | some p => match p.head? with
    | some h => some (h, p.flits, ({ n with rx := n.rx.erase p } : Ni).landAll)
    | none => none
  | none => none

/-- Flit counts of Table 7.3 and chapter 09. -/
def pktCount (op : PktOp) (n : Nat) : Bool :=
  match op with
  | .write | .readData => decide (1 ≤ n ∧ n ≤ 32)
  | .mcast => decide (3 ≤ n ∧ n ≤ 32)
  | .reduce => decide (3 ≤ n ∧ n ≤ 6)
  | .reserved _ => false
  | _ => decide (n = 1)

/-- A flit count outside Table 7.3, or a follower IDX out of sequence (R165). -/
def malformed (op : PktOp) (fs : List Flit) : Bool :=
  !pktCount op fs.length || (fs.zipIdx.any fun (f, i) => f.idx != i)

def Package.updNi (P : Package) (k : Nat) (f : Ni → Ni) : Package := P.updBole k fun b => b.updNi f

end Sys2Proof.Machine
end

