-- ==== Sys2Proof/Machine/HostRead.lean ====
section
/-! DEFINITION. What the Root issues on PCIe: reads with their tags, writes, and their splitting (R72, R402 to R406). -/

namespace Sys2Proof.Machine

/-- Cut [a, a + len) at the multiples of b: addresses and lengths. The first argument bounds the pieces. -/
def splitReq (b : Nat) : Nat → Nat → Nat → List (Nat × Nat)
  | 0, _, _ => []
  | n + 1, a, len =>
    if len = 0 then []
    else
      let k := min len (b - a % b)
      (a, k) :: splitReq b n (a + k) (len - k)

def splitAll (b a len : Nat) : List (Nat × Nat) := splitReq b (len / b + 2) a len

/-- A function that may issue requests: Bus Master Enable set, not in D3hot, not in reset (R380, R422, R424). -/
def Package.issues (P : Package) (f : Nat) : Bool := (P.fn f).master && !(P.fn f).inReset && P.rt.linkUp

/-- Room for one more read (R404). -/
def Package.readRoom (P : Package) (f : Nat) : Bool :=
  decide (P.rt.reads.length < 512) && decide ((P.rt.reads.filter fun x : HostRead => x.fn == f).length < 128)

/-- A tag that no outstanding read has, in rotating order. -/
def Package.freeTag (P : Package) : Nat :=
  (((List.range 1024).map fun i => (P.rt.nextTag + i) % 1024).find? fun t =>
    !P.rt.reads.any fun x : HostRead => x.tag == t).getD P.rt.nextTag

/-- Log and signal a failed read as a requester's Advanced Error Reporting does (R406; log 7): a timeout and a poisoned
completion are uncorrectable errors, told to the host where they are not masked and their reporting is enabled; Unsupported
Request and Completer Abort set the bits of the Status register. -/
def Package.hostError (P : Package) (f : Nat) (st : Option CplStatus) : Package :=
  let C := (P.fn f).cfg
  let unc (bit : Nat) : Package :=
    let fatal := bitAt C.aerSev bit
    let tell := !bitAt C.aerMask bit && (C.serr || bitAt C.errEn (if fatal then 2 else 1))
    let P1 := P.updFn f fun F => { F with cfg := { C with
      aerSta := C.aerSta ||| 2 ^ bit, devSta := C.devSta ||| (if fatal then 4 else 2) } }
    if tell then P1.updRt fun r => { r with tlps := r.tlps ++ [.err f fatal] } else P1
  match st with
  | none => unc 14
  | some .ep => unc 12
  | some .ur => P.updFn f fun F => { F with cfg := { C with gotUr := true } }
  | some .ca => P.updFn f fun F => { F with cfg := { C with gotCa := true } }
  | some .ok => P

/-- Does a read fetch data, so that it takes the Relaxed Ordering bit (R402)? -/
def ReadFor.isData : ReadFor → Bool
  | .data _ _ _ | .overflow _ _ _ => true
  | _ => false

def Package.issueRead (P : Package) (w : HostRead) : Package :=
  let t := P.freeTag
  P.updRt fun r => { r with
    reads := r.reads ++ [{ w with tag := t }]
    nextTag := (t + 1) % 1024
    tlps := r.tlps ++ [.memRd w.fn w.addr w.len t (w.what.isData && (P.fn w.fn).relax)] }

/-- Issue the reads that wait, in order, as far as there is room; those of a function that may issue none are given up. -/
def Package.pumpReads (P : Package) : Package :=
  P.rt.readWait.foldl (fun P w =>
    if !P.issues w.fn then P
    else if P.readRoom w.fn then P.issueRead w
    else P.updRt fun r => { r with readWait := r.readWait ++ [w] }) (P.updRt fun r => { r with readWait := [] })

def Package.askRead (P : Package) (w : HostRead) : Package :=
  (P.updRt fun r => { r with readWait := r.readWait ++ [w] }).pumpReads

def Package.askReads (P : Package) (ws : List HostRead) : Package :=
  (P.updRt fun r => { r with readWait := r.readWait ++ ws }).pumpReads

/-- A read has ended: its tag is free, and another may go. -/
def Package.endRead (P : Package) (tag : Nat) : Package :=
  (P.updRt fun r => { r with reads := r.reads.filter fun x : HostRead => x.tag != tag }).pumpReads

def Package.readTagged (P : Package) (tag : Nat) : Option HostRead := P.rt.reads.find? fun x : HostRead => x.tag == tag

/-- A ring reset's read that has just been issued starts its bound here (R7, R429). -/
def Package.noteResets (P : Package) (now : Nat) : Package :=
  P.rt.reads.foldl (fun P x => match x.what with
    | .resetRecord r =>
      if (P.ring x.fn r).rstOut && (P.ring x.fn r).rstAt.isNone then
        P.updRing x.fn r fun R => { R with rstAt := some now, rstPeriod := P.tk.period }
      else P
    | _ => P) P

/-- The outstanding read of a function for a purpose. -/
def Package.readOf (P : Package) (f : Nat) (what : ReadFor) : Option HostRead :=
  P.rt.reads.find? fun x : HostRead => x.fn == f && decide (x.what = what)

/-- Discard every read of a function: its completions, if they come, are late (R406, R422, R424). -/
def Package.dropReads (P : Package) (f : Nat) : Package :=
  P.updRt fun r => { r with reads := r.reads.filter fun x : HostRead => x.fn != f
                            readWait := r.readWait.filter fun x : HostRead => x.fn != f }

/-- Nothing waits any more for the reads of one ring. -/
def Package.staleReads (P : Package) (f rg : Nat) : Package :=
  let mine (x : HostRead) : Bool := x.fn == f && (match x.what with
    | .record a | .resetRecord a | .fetch a | .data a _ _ => a == rg
    | _ => false)
  P.updRt fun r => { r with reads := r.reads.map fun x : HostRead => if mine x then { x with what := .stale } else x
                            readWait := r.readWait.filter fun x : HostRead => !mine x }

/-- Memory Writes of data to the host, cut at Max_Payload_Size; dev reads bytes of the device with their poison. -/
def Package.writeTlps (P : Package) (f a : Nat) (pieces : List (List Byte × Bool)) : Package :=
  (pieces.foldl (fun (acc : Package × Nat) x =>
    (acc.1.updRt fun r => { r with tlps := r.tlps ++ [.memWr f acc.2 x.1 (P.fn f).relax x.2] }, acc.2 + x.1.length)) (P, a)).1

end Sys2Proof.Machine
end

