-- ==== Sys2Proof/Machine/OvfCore.lean ====
section
/-! DEFINITION. Masks of the age arbiters' sites, and the overflow streams at the Root DMA port (R72, R75, R89, R94, R99,
R100). -/

namespace Sys2Proof.Machine

/-! ### Masks (R99, R100) -/

/-- The logical bole behind bole port r of a half's slices (Table 4.1). -/
def portBole (h : Half) (r : Nat) : Nat := 8 * (r / 4) + r % 4 + (match h with | .west => 0 | .east => 4)

/-- The half whose heartwood slice port i serves. -/
def sliceHalf (i : Nat) : Half := if i < 16 then .west else .east

/-- A half of which no bole is up (R100). -/
def Package.halfDown (P : Package) (h : Half) : Bool := (List.range 64).all fun k => halfOf k != h || !P.up k

/-- A function that is masked at the Root DMA port: in reset, or Bus Master Enable clear. -/
def Package.fnMasked (P : Package) (f : Nat) : Bool := !(P.fn f).master || (P.fn f).inReset

/-- Is requester r of instance i in a condition that sets its sideband mask (R99, R100)? -/
def Package.siteMasked (P : Package) (i r : Nat) : Bool :=
  if i < 32 then
    if r < 32 then !P.up (portBole (sliceHalf i) r)
    else decide (r = 33) && P.halfDown (otherHalf (sliceHalf i))
  else if i = 32 then
    if r < 64 then (let m := P.comm.engMap.get {} r; m.v && P.fnMasked m.fn)
    else decide (r < 81) && P.fnMasked (r - 64)
  else decide ((P.link (i - 33)).train ≠ .active)

/-! ### Overflow streams (R72, R75, R94) -/

/-- Bytes of the first PCIe request of an overflow read: up to the next 512 B boundary, and no more than the function's
Max_Read_Request_Size (R72). -/
def firstLen (mrrs off len : Nat) : Nat := min len (min (512 - off % 512) mrrs)

/-- The first n PCIe requests of a read of len bytes at an offset: the bytes of each. -/
def ovfCuts (mrrs : Nat) : Nat → Nat → Nat → List Nat
  | 0, _, _ => []
  | n + 1, off, len =>
    if len = 0 then []
    else
      let k := firstLen mrrs off len
      k :: ovfCuts mrrs n (off + k) (len - k)

/-- 64 B units of requests (R75); a partial unit counts whole (DESIGN CHOICE, log 46). -/
def unitsOf (cuts : List Nat) : Nat := (cuts.map fun k => ceilDiv k 64).sum

def Package.ovfHead (P : Package) (f : Nat) : Option OvfPend := P.rt.ovfPend.find? fun o => P.fnOf o.bole == f

def Package.budget (P : Package) (f : Nat) : Nat := P.comm.budget.get 0 f

/-- Does the budget for the window cover the first n PCIe requests of a function's oldest overflow read? -/
def Package.budgetCovers (P : Package) (f n : Nat) : Bool :=
  match P.ovfHead f with
  | some o => decide (P.rt.ovfUsed.get 0 f + unitsOf (ovfCuts (P.fn f).mrrs n o.off o.len) ≤ P.budget f)
  | none => false

/-- Length of the request that an overflow stream presents: as many PCIe requests of its read as the budget of a whole
window covers, one at least and 16 at most (Table 4.1; DESIGN CHOICE, log 46). -/
def Package.ovfLen (P : Package) (f : Nat) (o : OvfPend) : Nat :=
  let cuts := ovfCuts (P.fn f).mrrs 16 o.off o.len
  ((List.range (cuts.length + 1)).filter fun n => decide (unitsOf (cuts.take n) ≤ P.budget f)).foldl max 1

/-- Is a request or a transfer of a requester at the instance? -/
def Arb.busy (a : Arb) (r : Nat) : Bool :=
  a.q.any (fun e => e.req == r) || a.refused.any (fun x => x.req == r) ||
    (match a.cur with | some c => c.e.req == r | none => false) || a.plan.starts r

/-- The request of function f's overflow stream, where it has a read and nothing at the arbiter. -/
def Package.ovfReq (P : Package) (f : Nat) : Option ArbReq :=
  match P.ovfHead f with
  | some o => if (P.arb 32).busy (64 + f) then none
      else some { req := 64 + f, len := P.ovfLen f o, lock := false, isWrite := false, pkt := 0 }
  | none => none

/-- An entry that its function's budget does not admit (R94). -/
def Package.unfundedEntry (P : Package) (req left : Nat) : Bool :=
  decide (64 ≤ req ∧ req ≤ 80) && !P.budgetCovers (req - 64) left

/-- Entries of a queue that wait for overflow budget (R94). -/
def Package.unfunded (P : Package) (a : Arb) : Nat :=
  (a.q.filter fun x : ArbEntry => P.unfundedEntry x.req (x.len - x.done)).length

/-- Does a ring engine's write stand at the instance, so that a record covering it is held (R94)? -/
def Arb.writing (a : Arb) (r : Nat) : Bool :=
  a.q.any (fun e => e.req == r && e.isWrite) || a.refused.any (fun x => x.req == r && x.isWrite) ||
    (match a.cur with | some c => c.e.req == r && c.e.isWrite | none => false)

/-- Of the requests of one cycle at the Root DMA port, those that are presented: n unfunded entries are in the queue so far.
-/
def Package.rootPresent (P : Package) : Nat → List ArbReq → List ArbReq
  | _, [] => []
  | n, r :: rs =>
    if P.siteMasked 32 r.req then P.rootPresent n rs
    else if r.req = 81 ∧ r.covers.any (P.arb 32).writing then P.rootPresent n rs
    else if P.unfundedEntry r.req r.len then
      if 8 ≤ n then P.rootPresent n rs else r :: P.rootPresent (n + 1) rs
    else r :: P.rootPresent n rs

/-- Requester whose beat the next step 1 drives. -/
def Arb.nextBeat (a : Arb) : Option Nat :=
  if a.driven then none else match a.plan with
  | .start x _ => some x.req
  | _ => a.cur.map fun c => c.e.req

/-- Does the transmitter have credit and room for the request due at the Root DMA port (R91, R404)? -/
def Package.creditFor (P : Package) : Bool :=
  P.rt.credit && (match (P.arb 32).nextBeat with
    | some r => decide (r < 64 ∨ 80 < r) || P.readRoom (r - 64)
    | none => true)

/-- Step 4 at the Root DMA port (R90, R93): what is still presented after a refusal, the streams' own requests, and these. -/
def Package.rootAccept (P : Package) (now : Nat) (reqs : List ArbReq) : Package :=
  let a := P.arb 32
  let streams := (List.range 17).filterMap P.ovfReq
  let kept := P.rootPresent (P.unfunded a) a.refused
  let m := (kept.filter fun r => P.unfundedEntry r.req r.len).length
  let rs := P.rootPresent (P.unfunded a + m) (streams ++ reqs.filter fun r => decide (r.req < 64 ∨ 80 < r.req))
  let (a1, up) := Arb.accept 32 { a with refused := kept } rs ((P.arb 32).classOf 32) now
  (P.updArb 32 fun _ => a1).raiseArbWm up

end Sys2Proof.Machine
end

