-- ==== Sys2Proof/Machine/SchedCore.lean ====
section
/-! DEFINITION. Schedule entries, the running bank of a router, reserved and guard cycles (R40, R189 to R195, R207). -/

namespace Sys2Proof

/-- The header slot of a scheduled flit (Table 8.5). -/
def SchedFlit.header (f : SchedFlit) : Nat :=
  f.stream + 2 ^ 10 * f.idx + 2 ^ 22 * b2n f.poison + 2 ^ 23 * b2n f.isVoid + 2 ^ 24 * f.win2 + 2 ^ 26 * f.tag

/-- A scheduled flit from its header slot and its payload. -/
def SchedFlit.ofSlot (w : Nat) (data : List Byte) : SchedFlit :=
  { stream := bits w 9 0, idx := bits w 21 10, poison := bitAt w 22, isVoid := bitAt w 23,
    win2 := bits w 25 24, tag := bits w 40 26, data := data }

/-- The flit as a hop carries it: in the 80 bytes of R199, with what its header word's code says beside them (R245). -/
def SchedFlit.resent (f : SchedFlit) : SchedFlit := { SchedFlit.ofSlot f.header f.data with hdrBad := f.hdrBad }

/-- What the checks of one element make of a scheduled flit: an error that cannot be corrected poisons it in its slot; with
both copies of its VN and VC code bad the element has no buffer to put it in (R200, R242, R245). -/
def SchedFlit.checked (f : SchedFlit) (ev : HopEvent) : Option SchedFlit :=
  if ev.codeBad then none
  else some { f with poison := f.poison || ev.payloadBad || ev.headerBad, hdrBad := f.hdrBad || ev.headerBad }

end Sys2Proof

namespace Sys2Proof.Machine

/-- A schedule entry (Table 8.2). -/
structure SEntry where
  v : Bool
  inp : Nat
  out : Nat
  win : Nat
  start : Nat
  len : Nat
  slack : Nat
  stream : Nat
  pace : Nat
  deriving DecidableEq, Repr

def sEntry (w : BitVec 64) : SEntry :=
  let n := w.toNat
  { v := bitAt n 0, inp := bits n 3 1, out := bits n 6 4, win := bits n 10 7, start := bits n 27 11, len := bits n 39 28,
    slack := bits n 51 40, stream := bits n 61 52, pace := bits n 63 62 }

/-- Reserved cycles of an entry: from START on. -/
def SEntry.span (x : SEntry) : Nat := x.len + x.slack
def SEntry.reserves (x : SEntry) (c : Nat) : Bool := decide (x.start ≤ c ∧ c < x.start + x.span)

/-- The slot that a cycle of the window is, by Table 8.1: flit i of the transfer travels in slot i (R192). The slack cycles
of a link's entries are slots of no fixed pattern. -/
def SEntry.slotIx (x : SEntry) (c : Nat) : Option Nat :=
  let d := c - x.start
  let in4 (n : Nat) : Option Nat := if d % n = n - 1 then none else some (d / n * (n - 1) + d % n)
  if x.start ≤ c ∧ c < x.start + x.len then
    (if x.pace = 1 then in4 4 else if x.pace = 2 then in4 24 else some d)
  else none

/-- First entry and length of a bank: 1 A, 2 B, 3 single (R195). -/
def bankBase (b : Nat) : Nat := if b = 2 then 4096 else 0
def bankLen (b : Nat) : Nat := if b = 0 then 0 else if b = 3 then 8192 else 4096
def bankHolds (b i : Nat) : Bool := decide (bankBase b ≤ i ∧ i < bankBase b + bankLen b)

/-- Valid entries of a bank, with their table index. -/
def Sched.bankEntries (S : Sched) (b : Nat) : List (Nat × SEntry) :=
  ((S.entries.filter fun x => bankHolds b x.1).map fun x => (x.1, sEntry x.2)).filter fun x => x.2.v

def Sched.hdr (S : Sched) (b : Nat) : SchedHdr := if b = 2 then S.hdrB else S.hdrA

/-- The standby bank: the one that was not active last, A at first. -/
def Sched.standby (S : Sched) : Nat := if S.single then 3 else if S.active = 1 then 2 else if S.active = 2 then 1 else if S.lastBank = 1 then 2 else 1

/-- Does an entry of bank b run in the window that tick t opens? Windows are numbered by their ticks (R42, DEDUCED, log 41).
-/
def Sched.runsIn (S : Sched) (b : Nat) (x : SEntry) (t : Nat) : Bool :=
  let m := (S.hdr b).m
  decide (b ≠ 0 ∧ 0 < m ∧ t % m = x.win)

def Sched.running (S : Sched) (t : Nat) : List (Nat × SEntry) :=
  (S.bankEntries S.active).filter fun x => S.runsIn S.active x.2 t

/-! ### Ports -/

/-- Does a link lead to another Stand, in a Grove of this shape (R129)? -/
def Package.linkInter (P : Package) (e : Env) (l : Nat) : Bool :=
  match l / 4 with
  | 0 => decide (P.rt.py = 0 ∧ 1 < e.h)
  | 1 => decide (P.rt.px = 7 ∧ 1 < e.w)
  | 2 => decide (P.rt.py = 7 ∧ 1 < e.h)
  | _ => decide (P.rt.px = 0 ∧ 1 < e.w)

/-- The link behind an outward port of the router of bole k. -/
def linkOf (k o : Nat) : Option Nat :=
  let c := k % 8
  let ly := k / 8
  if o = 0 ∧ ly = 0 then some (c / 2)
  else if o = 1 ∧ c = 7 then some (4 + ly / 2)
  else if o = 2 ∧ ly = 7 then some (8 + c / 2)
  else if o = 3 ∧ c = 0 then some (12 + ly / 2)
  else none

/-- The two boles whose routers a link serves, and the port by which they reach it. -/
def linkBoles (l : Nat) : List Nat :=
  let i := 2 * (l % 4)
  match l / 4 with
  | 0 => [i, i + 1]
  | 1 => [8 * i + 7, 8 * (i + 1) + 7]
  | 2 => [56 + i, 57 + i]
  | _ => [8 * i, 8 * (i + 1)]
def linkPort (l : Nat) : Nat := match l / 4 with | 0 => 0 | 1 => 1 | 2 => 2 | _ => 3

/-- Guard of a port (Table 2.4). -/
def Package.guard (P : Package) (e : Env) (k o : Nat) : Nat :=
  match linkOf k o with
  | some l => if P.linkInter e l then 304 else 32
  | none => 4

/-- Link entries that reserve no cycle: the package is not LOCKED, or its border is lost (R34, R35, R207). -/
def Package.linkIdle (P : Package) (e : Env) (l : Nat) : Bool := P.tk.offHeld || (P.tk.interHeld && P.linkInter e l)

/-- Cycle of the window. -/
def Package.cyc (P : Package) (e : Env) : Nat := P.tk.cyc e.now
def Package.winLen (P : Package) : Nat := windowCycles P.tk.period

def inGuard (g c len : Nat) : Bool := decide (c < g ∨ len ≤ c + g)

/-- Running entries of bole k's router that use a port as their output (or, for port 4 as input, injection entries). -/
def Package.entriesAt (P : Package) (e : Env) (k o : Nat) : List SEntry :=
  let all := ((P.bole k).sched.running P.tick).map fun x => x.2
  match linkOf k o with
  | some l => if P.linkIdle e l then [] else all.filter fun x : SEntry => x.out == o
  | none => all.filter fun x : SEntry => x.out == o

/-- A cycle in which a port of a router carries no dynamic-plane flit (R40, R190). At the live router of a skipped row these
are the reserved cycles of the entry upstream, 2 cycles later (R491). -/
def Package.portReserved (P : Package) (e : Env) (r o : Nat) : Bool :=
  match P.boleAt r with
  | none =>
    if r % 9 = 0 ∨ r % 9 = 8 ∨ (o ≠ 0 ∧ o ≠ 2) then false
    else match P.boleAt (if o = 2 then r - 1 else r + 1) with
      | some k => decide ((P.bole k).sched.active ≠ 0 ∧ 2 ≤ P.cyc e) &&
          ((P.entriesAt e k o).any fun x : SEntry => x.reserves (P.cyc e - 2))
      | none => false
  | some k =>
    decide ((P.bole k).sched.active ≠ 0) && (inGuard (P.guard e k o) (P.cyc e) P.winLen ||
      ((P.entriesAt e k o).any fun x : SEntry => x.reserves (P.cyc e)))

/-- Does a running entry reserve cycles at all: a link entry of a link that carries nothing scheduled does not (R207)? -/
def Package.entryStands (P : Package) (e : Env) (k : Nat) (x : SEntry) : Bool :=
  match linkOf k x.out with
  | some l => !P.linkIdle e l
  | none => true

/-- A cycle in which the injection input of bole k is reserved: a guard cycle, or one of an injection entry (R40, R190). -/
def Package.injReserved (P : Package) (e : Env) (k : Nat) : Bool :=
  decide ((P.bole k).sched.active ≠ 0) && (inGuard 4 (P.cyc e) P.winLen ||
    (((P.bole k).sched.running P.tick).any fun x : Nat × SEntry =>
      x.2.inp == 4 && P.entryStands e k x.2 && x.2.reserves (P.cyc e)))

/-- A cycle in which a link's egress carries no dynamic-plane flit: either router that its adapter serves counts. -/
def Package.linkReserved (P : Package) (e : Env) (l : Nat) : Bool :=
  (linkBoles l).any fun k => P.portReserved e (P.rtrOf k) (linkPort l)

/-- Partner that Table 6.1 names: its Stand, position and link number. -/
def Package.farEnd (P : Package) (e : Env) (l : Nat) : Nat × Nat × Nat × Nat :=
  let gx := P.baseX / 8
  let gy := P.baseY / 8
  let (nx, ny, l') := match l / 4 with
    | 0 => (gx, ringStep (8 * e.h) gy true, l + 8)
    | 1 => (ringStep (8 * e.w) gx false, gy, l + 8)
    | 2 => (gx, ringStep (8 * e.h) gy false, l - 8)
    | _ => (ringStep (8 * e.w) gx true, gy, l - 8)
  (8 * (ny / 8) + nx / 8, nx % 8, ny % 8, l')

/-! ### Occurrences (R202, R204) -/

def Package.sched (P : Package) (k : Nat) : Sched := (P.bole k).sched
def Package.updSched (P : Package) (k : Nat) (f : Sched → Sched) : Package :=
  P.updBole k fun b => { b with sched := f b.sched }

def Sched.stream (S : Sched) (n : Nat) : Stream := S.streams.get {} n
/-- Where the occurrence of stream n in window w is kept: those of two windows that follow each other stand apart. -/
def occKey (n w : Nat) : Nat := 2 * n + w % 2
def Sched.occAt (S : Sched) (n w : Nat) : Option Occ := S.occ.get none (occKey n w)
def Sched.setOcc (S : Sched) (n w : Nat) (o : Option Occ) : Sched := { S with occ := S.occ.set (occKey n w) o }

/-- The occurrence of an ejection entry of bole k in the present window: the one in progress, or a new one, which advances the
count. None where the stream has no descriptor, and once its record is written. -/
def Package.ejectOcc (P : Package) (e : Env) (k : Nat) (x : SEntry) : Option (Occ × Sched) :=
  let S := P.sched k
  let n := x.stream
  let fresh : Option (Occ × Sched) :=
    if (S.stream n).eject = false ∨ (S.stream n).flits = 0 ∨ S.recWin.get 0 n = P.tick + 1 then none
    else
      let o : Occ := { d := S.stream n, k := S.occNum.get 0 n, window := P.tick, link := linkOf k x.inp,
                       endAt := e.now + x.start + x.span + 47 - P.cyc e }
      some (o, { S.setOcc n P.tick (some o) with occNum := S.occNum.upd 0 n (· + 1) })
  match S.occAt n P.tick with
  | some o => if o.window = P.tick ∧ o.d.eject then some (o, S) else fresh
  | none => fresh

/-- The window ends, or its bank stops: every ejection entry that runs in it has had its occurrence, landed in or not
(R202, R206). -/
def Package.closeOccs (P : Package) (e : Env) : Package :=
  (List.range 64).foldl (fun P k =>
    (((P.sched k).running P.tick).filter fun x : Nat × SEntry => x.2.out == 4).foldl (fun P x =>
      match P.ejectOcc e k x.2 with
      | some (_, S) => P.updSched k fun _ => S
      | none => P) P) P

end Sys2Proof.Machine
end

