-- ==== Sys2Proof/Machine/Inject.lean ====
section
/-! DEFINITION. Pushing to injection queues, NI DMA, and injection: NI_DMA_WRITE, NI_DMA_READ, INJECTION_PUSH,
PACKET_INJECT, RESEND_DUE (R24, R180 to R184, R252 to R254, R496). -/

namespace Sys2Proof.Machine

/-! ### Pushes -/

/-- Refusals of a request before any packet leaves (R24, R496): the fault code and its address. -/
def Package.pushFault (P : Package) (k : Nat) (q : Push) (granules : Nat) : Option (Nat × Nat) :=
  let reply := fld q.body (if q.op = .read then 0 else 4) 4
  let span := if q.op = .read then 64 * q.answerFlits else 8
  let replies := decide (q.op = .read) || q.fetching
  let srcLen := if q.op = .write then 64 * granules else q.len
  if !(P.glade k).holds q.dstX q.dstY then some (fcOutOfGlade, q.loc)
  else if (q.op = .write ∨ q.op = .writeShort) ∧ leafTop < q.src + srcLen then some (fcAddress, q.src)
  else if replies ∧ leafTop < reply + span then some (fcAddress, reply)
  else if replies ∧ reply % (if q.op = .read then 64 else 8) ≠ 0 then some (fcAlignment, reply)
  else none

/-- Operation number that the next newOp takes. -/
def Package.nextOp (P : Package) (k : Nat) : Nat := (P.bole k).ni.nextOp

/-- Start an operation of these requests and push them in order. -/
def Package.startOp (P : Package) (e : Env) (k : Nat) (rs : List (Push × Nat)) (chain : Option Nat := none)
    (key : Option (Nat × Nat) := none) : Package :=
  let id := P.nextOp k
  let P1 := P.updNi k fun n => n.newOp rs.length chain
  rs.foldl (fun P r => P.pushQ e k 0 { what := .req r.1 r.2, op := id, key := key }) P1

/-- A REDUCE that a program pushes (R216 to R218, R235): q.dstX and q.dstY name the root, q.body the set flit and its one
to four data flits. -/
def Package.pushReduce (P : Package) (e : Env) (k : Nat) (q : Push) : Package :=
  let set := setOf q.body
  let n := ceilDiv q.body.length 64 + 1
  if !(set.inGlade (P.glade k)) || !(P.glade k).holds q.dstX q.dstY then P.fault k fcOutOfGlade q.loc
  else if 4 < bits (fld q.body 13 1) 4 2 ∨ n < 3 ∨ 6 < n then P
  else
    P.pushQ e k 2 { what := .pkt (mkPacket (P.mkHead e k .reduce q.dstX q.dstY q.loc false 0) n
      (List.replicate 64 0 ++ q.body) []) }

/-- A push by the program (R24, R180, R187). One that finds its queue full is refused and counted before anything else about
it is looked at, so that it raises no out of glade fault (DESIGN CHOICE, log 46: R24 and R187 give no order). -/
def Package.injPush (P : Package) (e : Env) (k : Nat) (q : Push) : Package :=
  let v := q.op.vn
  if 32 ≤ ((P.bole k).ni.q.get [] v).length then (P.updNi k fun n => n.pushing v e.now).count k cINJREFUSED
  else if q.op = .reduce then P.pushReduce e k q
  else if v ≠ 0 ∨ (q.op = .write ∧ (q.granules = 0 ∨ 32 < q.granules)) then P
  else match P.pushFault k q q.granules with
    | some (c, a) => P.fault k c a
    | none => P.startOp e k [(q, q.granules)]

def execInjectionPush (p : PkgId) (k : BoleIx) (q : Push) (s : State) : Host.Outcome State Fault Refusal :=
  .next (s.onProg p k fun e P => P.injPush e k q)

/-! ### NI DMA -/

/-- Cut g granules into runs of at most 32: first granule and count of each (R496). -/
def cut32 (g : Nat) : List (Nat × Nat) := (List.range (ceilDiv g 32)).map fun i => (32 * i, min 32 (g - 32 * i))

def Package.dmaWrite (P : Package) (e : Env) (k : Nat) (d : Dma) : Package :=
  if !(P.glade k).holds d.dstX d.dstY then P.fault k fcOutOfGlade d.loc
  else if leafTop < d.leaf + 64 * d.granules then P.fault k fcAddress d.leaf
  else P.startOp e k ((cut32 d.granules).map fun (g, n) =>
    ({ op := .write, dstX := d.dstX, dstY := d.dstY, loc := d.loc + 64 * g, ord := d.ord, src := d.leaf + 64 * g,
       len := 64 * n, body := [] }, n))

def execNiDmaWrite (p : PkgId) (k : BoleIx) (d : Dma) (s : State) : Host.Outcome State Fault Refusal :=
  .next (s.onProg p k fun e P => P.dmaWrite e k d)

/-- A read of the bole's own overflow window (R70, R71, R76): it waits in the pending queue of the Root DMA port. One that
is out of range while its function may issue nothing is reported as out of range (DESIGN CHOICE, log 46: R70 and R76 give no
order). -/
def Package.dmaOverflow (P : Package) (e : Env) (k : Nat) (d : Dma) : Package :=
  let off := d.loc - 0x80000000
  let F := P.fn (P.fnOf k)
  if F.ovfSize * 4096 < off + 64 * d.granules then P.fault k fcOvfRange d.loc
  else if !F.master || F.inReset then P.fault k fcOvfUnavailable d.loc
  else
    let id := P.nextOp k
    let P1 := P.updNi k fun n => n.newOp 1
    let P2 := P1.updRt fun r => { r with ovfPend := r.ovfPend ++
        [{ bole := k, op := id, off := off, leaf := d.leaf, len := 64 * d.granules }] }
    if P2.creditFor then P2.rootAccept e.now [] else P2

/-- Does a DMA read go to the bole's own overflow window? -/
def Package.isOverflow (P : Package) (k : Nat) (d : Dma) : Bool :=
  decide (d.dstX = P.boleX k ∧ d.dstY = P.boleY k ∧ 0x80000000 ≤ d.loc)

def Package.dmaRead (P : Package) (e : Env) (k : Nat) (d : Dma) : Package :=
  if !(P.glade k).holds d.dstX d.dstY && !P.isOverflow k d then P.fault k fcOutOfGlade d.loc
  else if leafTop < d.leaf + 64 * d.granules then P.fault k fcAddress d.leaf
  else if d.leaf % 64 ≠ 0 then P.fault k fcAlignment d.leaf
  else if d.granules = 0 then P.updNi k fun n => n.newOp 0
  else if P.isOverflow k d then P.dmaOverflow e k d
  else P.startOp e k ((cut32 d.granules).map fun (g, n) =>
    ({ op := .read, dstX := d.dstX, dstY := d.dstY, loc := d.loc + 64 * g, ord := d.ord, src := 0, len := 0,
       body := leBytes 4 (d.leaf + 64 * g) ++ leBytes 1 (n - 1) }, 0))

def execNiDmaRead (p : PkgId) (k : BoleIx) (d : Dma) (s : State) : Host.Outcome State Fault Refusal :=
  .next (s.onProg p k fun e P => P.dmaRead e k d)

/-! ### Conditions of injection (R181, R253, R254, R264) -/

def Ni.reqsTo (n : Ni) (dx dy : Nat) : List ReqRec := n.reqs.filter fun r : ReqRec => r.dstX == dx && r.dstY == dy
def Ni.aliveEnt (n : Ni) (dx dy : Nat) : Option AliveEnt := n.alive.find? fun a => a.dstX == dx && a.dstY == dy
def Ni.resvUsed (n : Ni) : Nat := (n.resv.map fun r : Resv => r.flits).sum

/-- May the NI inject this new request? -/
def Ni.reqOk (n : Ni) (q : Push) : Bool :=
  let rs := n.reqsTo q.dstX q.dstY
  let a := match n.aliveEnt q.dstX q.dstY with | some x => x.next | none => 0
  let inWindow := match rs with | [] => true | r :: _ => decide (subMod 65536 a r.alive < 64)
  let recent := match n.aliveEnt q.dstX q.dstY with
    | some x => (x.fetching.filter fun f => decide (1 ≤ subMod 65536 a f ∧ subMod 65536 a f ≤ 63)).length
    | none => 0
  decide (n.resvUsed + q.answerFlits ≤ 128 ∧ rs.length < 64) && inWindow && (!q.fetching || decide (recent < 8))
    && ((n.aliveEnt q.dstX q.dstY).isSome || decide (n.alive.length < 512))

def vkey (port vn vc : Nat) : Nat := 8 * port + 2 * vn + vc

/-- The sender may start a flit towards the injection port's buffer (R172, R173). -/
def Package.injOn (P : Package) (k vn : Nat) : Bool :=
  let R := P.rtr (P.rtrOf k)
  !R.seenOff.get false (vkey 4 vn 0) && decide ((R.buf.get [] (vkey 4 vn 0)).length < 16)

/-- A flit that arrives in a buffer at State.now = now. -/
def stampAt (now : Nat) (f : Flit) : Flit := { f with arrived := now }

/-- Append flits to a router's input buffer and take its off state. -/
def Router.put (R : Router) (key : Nat) (graft : Bool) (fs : List Flit) : Router :=
  let b := R.buf.get [] key ++ fs
  { R with buf := R.buf.set key b, off := R.off.set key (bufOff graft (R.off.get false key) b.length) }

/-- Not red at the shaper, which stands at this cycle (R291). -/
def Package.notRed (P : Package) (e : Env) (k vn n : Nat) : Bool :=
  decide ((P.bole k).shaper.colour vn n (P.ckm e.now) ≠ .red)

/-- Can the queue of a VN send its next packet now? A bole of no glade begins none: every packet of an NI carries a glade's
tag (R142). -/
def Package.injReady (P : Package) (e : Env) (k vn : Nat) : Bool :=
  let n := (P.bole k).ni
  P.injOn k vn && !P.injReserved e k &&
  (if !(n.inj.get [] vn).isEmpty then true
   else if n.aborting || P.tagOf k == 0 then false
   else if vn = 0 then
     n.quarantine.isNone &&
     (match n.dueReq P.tick with
      | some r => decide (n.resvUsed + r.q.answerFlits ≤ 128) && P.notRed e k 0 (reqFlits r.q r.granules)
      | none => match n.q.get [] 0 with
        | { what := .req q g, .. } :: _ => n.reqOk q && P.notRed e k 0 (reqFlits q g)
        | _ => false)
   else match n.q.get [] vn with
     | [] => false
     | x :: _ => P.notRed e k vn x.flits)

/-- The first of m places after the one served last that is ready. -/
def rotPick (last m : Nat) (ready : Nat → Bool) : Option Nat :=
  ((List.range m).map fun i => (last + 1 + i) % m).find? ready

/-- Is the packet at the head of a queue red (R291)? -/
def Package.headRed (P : Package) (e : Env) (k vn : Nat) : Bool :=
  (P.niHead k vn).any fun h => !P.notRed e k vn h.flits

/-- The rotation once a queue has been served: it goes to the end behind those passed over, but a queue passed over for its
red head keeps its turn (R183, R298). -/
def turnAfter (rot : List Nat) (v : Nat) (red : Nat → Bool) : List Nat :=
  let before := rot.takeWhile fun x => x != v
  let after := (rot.dropWhile fun x => x != v).drop 1
  before.filter red ++ after ++ before.filter (fun x => !red x) ++ [v]

/-- The virtual network whose packet the injection port takes next (R183). -/
def Package.injPick (P : Package) (e : Env) (k : Nat) : Option Nat :=
  let n := (P.bole k).ni
  if P.injReady e k 3 then some 3
  else match [0, 1, 2].find? fun v => !(n.inj.get [] v).isEmpty with
    | some v => if P.injReady e k v then some v else none
    | none => n.rotInj.find? (P.injReady e k)

/-! ### Injection -/

/-- Send the first of a packet's flits; the rest follow at later injections, one in a cycle (R183). -/
def Package.sendFlits (P : Package) (k vn now : Nat) (fs : List Flit) : Package :=
  (P.updRtr (P.rtrOf k) fun R => R.put (vkey 4 vn 0) false ((fs.take 1).map (stampAt now))).updNi k fun n =>
    { n with inj := n.inj.set vn (fs.drop 1), injCyc := now + 1
             headFrom := if fs.length ≤ 1 then n.headFrom.set vn (now + 1) else n.headFrom }

def Package.debit (P : Package) (e : Env) (k vn n : Nat) : Package :=
  P.updBole k fun b => { b with shaper := b.shaper.debit vn n (P.ckm e.now) }

/-- Records of an injected request: its reservation (R184), its ALIVE counter's use (R264), and for a new request its
ALIVE (R182) and its record (R252). -/
def Ni.reserve (n : Ni) (dx dy alive flits tick : Nat) : Ni :=
  { n with resv := n.resv ++ [{ dstX := dx, dstY := dy, alive := alive, flits := flits, window := tick }] }

/-- The end of 8 tick periods from now (R7, R264). -/
def Package.aliveUntil (P : Package) (now : Nat) : Nat := now + 8 * windowCycles P.tk.period

def Ni.useAlive (n : Ni) (dx dy freeAt : Nat) (f : AliveEnt → AliveEnt) : Ni :=
  let n1 : Ni := if (n.aliveEnt dx dy).isSome then n else { n with alive := n.alive ++ [{ dstX := dx, dstY := dy }] }
  { n1 with alive := n1.alive.map fun a => if a.dstX = dx ∧ a.dstY = dy then f { a with freeAt := freeAt } else a }

def AliveEnt.take (a : AliveEnt) (fetching : Bool) : AliveEnt :=
  { a with next := (a.next + 1) % 65536,
           fetching := if fetching then
             (a.fetching.filter fun f => decide (subMod 65536 a.next f ≤ 63)) ++ [a.next] else a.fetching }

/-- As a request is resent, every later one to its destination that has not been follows in the same burst. Its due window
stays its own (R254). -/
def ReqRec.follow (x r : ReqRec) : ReqRec :=
  if x.dstX = r.dstX ∧ x.dstY = r.dstY ∧ x.resent = false ∧ subMod 65536 x.alive r.alive < 32768 then
    { x with burst := true, due := some (x.due.getD (x.window + 2)) }
  else x

def Package.injResend (P : Package) (e : Env) (k : Nat) (r : ReqRec) : Package :=
  let (fs, P1) := P.buildReq e k r.q r.granules r.alive r.kept
  ((P1.updNi k fun n =>
      let n1 := (n.reserve r.dstX r.dstY r.alive r.q.answerFlits P.tick).useAlive r.dstX r.dstY (P.aliveUntil e.now) id
      { n1 with reqs := n1.reqs.map fun x => if x = r then { x with resent := true } else x.follow r }).count k cRESEND
    |>.debit e k 0 fs.length).sendFlits k 0 e.now fs

def Package.injNew (P : Package) (e : Env) (k : Nat) (q : Push) (g op : Nat) : Package :=
  let n := (P.bole k).ni
  let a := match n.aliveEnt q.dstX q.dstY with | some x => x.next | none => 0
  let (fs, P1) := P.buildReq e k q g a
  let P2 := P1.updNi k fun n =>
    let n1 := ((n.popQ 0 e.now).reserve q.dstX q.dstY a q.answerFlits P.tick).useAlive q.dstX q.dstY (P.aliveUntil e.now)
      (AliveEnt.take · q.fetching)
    ({ n1 with reqs := n1.reqs ++ [{ dstX := q.dstX, dstY := q.dstY, alive := a, q := q, granules := g, op := op, window := P.tick,
                                     kept := if q.op = .writeShort then some (payloadOf fs, pktPoison fs) else none }] } : Ni).opSent op
  ((P2.sampleQ k 0 e.now).debit e k 0 fs.length).sendFlits k 0 e.now fs

/-- The source of a multicast sees its packet leave (R227, R228). -/
def Ni.mcInjected (n : Ni) (fs : List Flit) (tick now period : Nat) : Ni :=
  match fs with
  | { hdr := .head h, .. } :: _ =>
    if h.op = .mcast then
      { n with mc := n.mc.map fun m : McSrc => if m.opnum = h.alive / 32 % 2048 then
          { m with firstAt := some (m.firstAt.getD (now, period)), left := m.left - 1,
                   lastWin := if m.left ≤ 1 then some tick else m.lastWin } else m }
    else n
  | _ => n

def Package.injPkt (P : Package) (e : Env) (k vn : Nat) (fs0 : List Flit) : Package :=
  let fs := restamp fs0 (P.tick % 4)
  let P1 := (P.updNi k fun n => (n.popQ vn e.now).mcInjected fs P.tick e.now P.tk.period).sampleQ k vn e.now
  (P1.debit e k vn fs.length).sendFlits k vn e.now fs

/-- One injection on a virtual network that may send. -/
def Package.injectNow (P : Package) (e : Env) (k vn : Nat) : Package :=
  let n := (P.bole k).ni
  if !(n.inj.get [] vn).isEmpty then P.sendFlits k vn e.now (n.inj.get [] vn)
  else if vn = 0 then
    match n.dueReq P.tick with
    | some r => P.injResend e k r
    | none => match n.q.get [] 0 with
      | { what := .req q g, op := op, .. } :: _ => P.injNew e k q g op
      | _ => P
  else match n.q.get [] vn with
    | { what := .pkt fs, .. } :: _ => P.injPkt e k vn fs
    | _ => P

/-- A packet of VN0 to VN2 that begins takes its network's turn. -/
def Package.takeTurn (P : Package) (e : Env) (k vn : Nat) : Package :=
  if vn < 3 ∧ ((P.bole k).ni.inj.get [] vn).isEmpty then
    P.updNi k fun n => { n with rotInj := turnAfter n.rotInj vn (P.headRed e k) }
  else P

def Package.inject (P : Package) (e : Env) (k vn : Nat) : Package :=
  let P1 := P.niAdvance k e.now
  if P1.injPick e k = some vn then (P1.takeTurn e k vn).injectNow e k vn else P1

/-- Has the port carried a flit in this cycle, or the queue been pushed in it (R183, R186)? -/
def Package.injUsed (P : Package) (k vn now : Nat) : Bool :=
  let n := (P.bole k).ni
  decide (n.injCyc = now + 1) || decide ((n.qmon.get {} vn).pushCyc = some now)

def execPacketInject (p : PkgId) (k : BoleIx) (vn : Fin 4) (s : State) : Host.Outcome State Fault Refusal :=
  .next ((s.inCycle ((s.pkg p).live && (s.pkg p).injUsed k vn s.now)).onBole p k fun e P => P.inject e k vn)

/-! ### Resends and their end (R254, R256) -/

/-- The resends of requests that meet a condition fall due, each in a window of its own. -/
def Ni.makeDue (n : Ni) (ok : ReqRec → Bool) (window : ReqRec → Nat) : Ni :=
  { n with reqs := n.reqs.map fun r => if ok r ∧ r.resent = false ∧ r.due.isNone then { r with due := some (window r) } else r }

def execResendDue (p : PkgId) (k : BoleIx) (dstX dstY : Nat) (s : State) : Host.Outcome State Fault Refusal :=
  .next (s.onBole p k fun e P => (P.niAdvance k e.now).updNi k fun n =>
    n.makeDue (fun r => decide (r.dstX = dstX ∧ r.dstY = dstY ∧ r.window + 2 ≤ P.tick)) fun r => r.window + 2)

/-- Every unanswered request to a destination ends (R256): its operation faults, and the ALIVE counter skips 64. -/
def Package.endDest (P : Package) (k dx dy : Nat) : Package :=
  let rs := (P.bole k).ni.reqsTo dx dy
  let P1 := rs.foldl (fun P r =>
    (P.fault k (if 0 < r.bad then fcPoisonedAnswer else fcNoAnswer) r.q.loc).opEnds k r.op true) P
  (P1.updNi k fun n =>
    { n with reqs := n.reqs.filter fun r : ReqRec => !(r.dstX == dx && r.dstY == dy)
             alive := n.alive.map fun a => if a.dstX = dx ∧ a.dstY = dy then { a with next := (a.next + 64) % 65536 } else a })
    |>.count k cNOANSWER rs.length

/-- Has a request's time come: the second tick after its resend's due window? -/
def ReqRec.overdue (r : ReqRec) (tick : Nat) : Bool :=
  match r.due with
  | some d => decide (d + 2 ≤ tick)
  | none => false

def execRequestUnanswered (p : PkgId) (k : BoleIx) (dstX dstY : Nat) (s : State) : Host.Outcome State Fault Refusal :=
  .next (s.onBole p k fun e P =>
    if ((P.bole k).ni.reqsTo dstX dstY).any fun r : ReqRec => r.overdue P.tick then (P.niAdvance k e.now).endDest k dstX dstY else P)

end Sys2Proof.Machine
end

