-- ==== Sys2Proof/Machine/LinkCore.lean ====
section
/-! DEFINITION. Shared operations of a link port: receive regions, egress buffers, escapes (R143, R172, R360, R494). -/

namespace Sys2Proof.Machine

/-- Counter numbers of Table 18.8. -/
def lkFECCORR := 0
def lkFECUNCORR := 1
def lkFRAMEBAD := 2
def lkOOO := 3
def lkREPLAY := 4
def lkRETRAIN := 5
def lkHOLDRX := 6
def lkHOLDZERO := 7
def lkHOLDBAD := 8
def lkOVERRUN := 9
def lkESCAPE := 10
def lkEXPIRED := 11

def Link.count (L : Link) (j : Nat) (n : Nat := 1) : Link := { L with cnt := L.cnt.upd 0 j fun v => sat32 v n }

/-! ### The frame being assembled (R351, R200, R374) -/

/-- Put a link flit into the frames to come. -/
def Link.asmPut (L : Link) (bs : List Byte) (kind : AsmKind) : Link :=
  { L with asm := L.asm ++ bs, asmItems := L.asmItems ++ [(bs.length, kind)] }

/-- Take n bytes off a run of link flits: is there a byte of a scheduled one among them, and what is left. -/
def cutItems : Nat → List (Nat × AsmKind) → Bool × List (Nat × AsmKind)
  | _, [] => (false, [])
  | n, (m, k) :: xs =>
    if n = 0 then (false, (m, k) :: xs)
    else if m ≤ n then
      let (b, rest) := cutItems (n - m) xs
      (b || k == .sched, rest)
    else (k == .sched, (m - n, if k = .tickSync then .dyn else k) :: xs)

/-- Does a tick-sync eft begin in the next n bytes? -/
def syncBegins : Nat → List (Nat × AsmKind) → Bool
  | _, [] => false
  | n, (m, k) :: xs => decide (n ≠ 0) && (k == .tickSync || syncBegins (n - m) xs)

/-! ### Receive regions (R360, Table 14.5) -/

def regionChans (ch : Nat) : List Nat := if ch < 6 then [0, 1, 2, 3, 4, 5] else [6, 7]
def regionSlots (ch : Nat) : Nat := if ch < 6 then 3072 else 1856
def Link.regionUsed (L : Link) (ch : Nat) : Nat := ((regionChans ch).map fun c => (L.rx.get [] c).length).sum
def Link.regionFree (L : Link) (ch : Nat) : Nat := regionSlots ch - L.regionUsed ch

/-- Off state of a receive channel. -/
def Link.rxState (L : Link) (ch : Nat) : Bool :=
  let occ := (L.rx.get [] ch).length
  let free := L.regionFree ch
  let hi := if ch < 6 then 512 else 64
  let lo := if ch < 6 then 384 else 32
  if hi ≤ occ ∨ free ≤ L.skid then true
  else if occ ≤ lo ∧ L.skid + 64 < free then false
  else L.rxOff.get false ch

def Link.rxSample (L : Link) : Link :=
  { L with rxOff := (List.range 8).map fun ch => (ch, L.rxState ch) }

/-- Side of the two routers that a packet from this link goes to: its line (R495). -/
def lineSide (l : Nat) (h : Head) : Nat := if l / 4 % 2 = 0 then h.dstX % 2 else h.srcY % 2

/-- Side to which the flit at the head of a receive channel belongs, none between packets with no head there. -/
def Link.rxHeadSide (L : Link) (l ch : Nat) : Option Nat :=
  match L.rx.get [] ch with
  | [] => none
  | f :: _ => match f.hdr with
    | .head h => some (lineSide l h)
    | .follow _ => if L.rxSide.get 0 ch ≠ 0 then some (L.rxSide.get 0 ch - 1) else none

def Link.rxPop (L : Link) (l ch : Nat) : Link :=
  match L.rx.get [] ch with
  | [] => L
  | f :: fs =>
    let side := match L.rxHeadSide l ch with | some s => s + 1 | none => 0
    ({ L with rx := L.rx.set ch fs, rxSide := L.rxSide.set ch (if f.isLast then 0 else side) } : Link).rxSample

/-! ### Egress buffers (R494) -/

/-- A head waits on a channel with no packet open: it stands at the head from now on (Table 12.3). headAt holds the
cycle plus 1, and 0 for none; behind a packet it is the cycle after that packet's last flit. -/
def Link.markHead (L : Link) (ch now : Nat) : Link :=
  if L.egOpen.get false ch ∨ L.headAt.get 0 ch ≠ 0 then L
  else if (L.eg.get [] ch).isEmpty && (L.eg.get [] (8 + ch)).isEmpty then L
  else { L with headAt := L.headAt.set ch (now + 1) }

/-- Flits that wait on a channel, and its samples. -/
def Link.egDepth (L : Link) (ch : Nat) : Nat := (L.eg.get [] ch).length + (L.eg.get [] (8 + ch)).length
def Link.sampleVc (L : Link) (ch now : Nat) : Link :=
  { L with vcMon := L.vcMon.upd {} ch fun m => (m.depth now none (L.egDepth ch)).1 }

def Link.egState (L : Link) (key : Nat) : Link :=
  { L with egOff := L.egOff.set key (bufOff false (L.egOff.get false key) (L.eg.get [] key).length) }

def Link.egPut (L : Link) (side ch now : Nat) (f : Flit) : Link :=
  let key := 8 * side + ch
  ((({ L with eg := L.eg.upd [] key fun l => l ++ [f] } : Link).egState key).markHead ch now).sampleVc ch now

def Link.egPop (L : Link) (side ch now : Nat) : Link :=
  let key := 8 * side + ch
  ((({ L with eg := L.eg.upd [] key fun l => l.drop 1 } : Link).egState key).markHead ch (now + 1)).sampleVc ch now

/-- Count an escape, and record the first one (R143). -/
def Link.escaped (L : Link) (tag srcX srcY : Nat) : Link :=
  let L1 := L.count lkESCAPE
  if L1.escapeV then L1 else { L1 with escape := tag + 2 ^ 16 * srcX + 2 ^ 32 * srcY, escapeV := true }

/-! ### Tick-sync efts (Table 2.1, R30, R142, R374) -/

/-- TK_TIME as a stamp takes it. -/
def Package.stamp (P : Package) (e : Env) : Nat := P.tk.count e.now

/-- The link over which a package takes its time, where a link carries it: from slot s to slot s + 1 of a sled, and to the
border package of a follower Stand (Table 2.1). The first link of that side whose frames flow serves (DESIGN CHOICE, log
29). -/
def Package.syncSource (P : Package) (e : Env) : Option Nat :=
  let st := P.rt.stand
  let first (a : Nat) : Option Nat := [a, a + 1, a + 2, a + 3].find? fun l => decide ((P.link l).train = .active)
  if P.rt.px % 4 ≠ 0 then first 12
  else if P.rt.px = 0 ∧ P.rt.py = 0 ∧ st ≠ 0 ∧ st % 8 < e.w ∧ st / 8 < e.h then first (if st / 8 = 0 then 12 else 0)
  else none

/-- A tick-sync eft to the partner of a link; DATA is stamped as its frame leaves. -/
def Package.syncEft (P : Package) (e : Env) (l : Nat) : Eft :=
  let k := (linkBoles l).headD 0
  let (st, px, py, l') := P.farEnd e l
  let k' := (linkBoles l').headD 0
  { kind := 9, inbox := 0, dstX := 64 * (st % 8) + 8 * px + k' % 8, dstY := 64 * (st / 8) + 8 * py + k' / 8,
    srcX := P.boleX k, srcY := P.boleY k, group := 0, word := 0, rop := 0, fmt := 0, dx := decide (l / 4 = 3), dy := decide (l / 4 = 0),
    epoch := 0, data := 0 }

/-- The one-flit packet on VN3 with tag 0 that carries it between Stands. -/
def syncFlit (f : Eft) (age : Nat) : Flit :=
  let h : Head := { ftype := .single, vn := 3, vc := 0, ord := false, poison := false, dx := f.dx, dy := f.dy, op := .eft, age := age,
                    dstX := f.dstX, dstY := f.dstY, srcX := f.srcX, srcY := f.srcY, tag := 0, alive := 0, loc := 0, ecrc := 0 }
  let data := padTo 64 (leBytes 16 f.value)
  { hdr := .head { h with ecrc := ecrcOf h data }, data := data }

/-- Send a tick-sync eft over a link: on its twig lane, or between Stands on VN3. The stamps of the exchange before go. -/
def Package.syncSend (P : Package) (e : Env) (l : Nat) : Package :=
  let f := P.syncEft e l
  let P1 : Package := { P with tk := { P.tk with syncOut := P.tk.syncOut.set l 0 } }
  if P.linkInter e l then P1.updLink l fun L => L.egPut 0 6 e.now (syncFlit f (P.tick % 4))
  else P1.updLink l fun L => { L with lane := { L.lane with out := L.lane.out ++ [f] } }

/-- A frame with a tick-sync eft leaves, and arrives. The end that time flows from answers. -/
def Package.syncLeft (P : Package) (e : Env) (l : Nat) : Package :=
  { P with tk := { P.tk with syncOut := P.tk.syncOut.set l (P.stamp e + 1) } }

def Package.syncArrived (P : Package) (e : Env) (l : Nat) : Package :=
  let P1 : Package := { P with tk := { P.tk with syncIn := P.tk.syncIn.set l (P.stamp e + 1) } }
  if P.syncSource e = some l then P1 else P1.syncSend e l

/-- The follower's side of the exchange begins, once per tick period (R30). -/
def Package.syncBegin (P : Package) (e : Env) : Package :=
  match P.syncSource e with
  | some l => { P with tk := { P.tk with syncIn := P.tk.syncIn.set l 0 } }.syncSend e l
  | none => P

/-- An eft, and a flit that carries one, stamped (R374). -/
def stampEft (t : Nat) (f : Eft) : Eft := if f.kind = 9 then { f with data := BitVec.ofNat 64 t } else f
def stampFlit (t : Nat) (f : Flit) : Flit :=
  match f.hdr with
  | .head h =>
    let data := padTo 64 (leBytes 16 (stampEft t (Eft.ofValue (leNat (f.data.take 16)))).value)
    { f with hdr := .head { h with ecrc := ecrcOf h data }, data := data }
  | .follow _ => f

/-- Bring a link's shaper to the cycle, then change the link. -/
def Package.updLinkAt (P : Package) (e : Env) (l : Nat) (f : Link → Link) : Package := (P.lkAdvance l e.now).updLink l f

end Sys2Proof.Machine
end

