-- ==== Sys2Proof/Machine/Fabric.lean ====
section
/-! DEFINITION. Routers: where a flit goes, who may go, and the row ROUTER_FORWARD; ONOFF_SIGNAL, FLIT_EXPIRY
(R135 to R151, R172 to R178, R231, R241 to R246, R491, R494). -/

namespace Sys2Proof.Machine

/-! ### Where ports lead (Table 6.1, R22, R149, R150, R491) -/

/-- What a router's port leads to. Ports are 0 north, 1 east, 2 south, 3 west, 4 bole. -/
inductive Hop
  | bole (k : Nat)
  | rtr (r port : Nat)
  | edge (l side : Nat)
  /-- A missing vertical link: direction 0 south, 1 north (R150). -/
  | gap (dir : Nat)
  | nowhere
  deriving DecidableEq, Repr

def Package.deadCol (P : Package) (c : Nat) : Bool := P.repair.dead.getLsbD c
def Package.rtrAt (P : Package) (c ly : Nat) : Nat := 9 * c + P.physRow c ly

def Package.hopLogical (P : Package) (k o : Nat) : Hop :=
  let c := k % 8
  let ly := k / 8
  if o = 4 then .bole k
  else if o = 1 then (if c = 7 then .edge (4 + ly / 2) (ly % 2) else .rtr (P.rtrAt (c + 1) ly) 3)
  else if o = 3 then (if c = 0 then .edge (12 + ly / 2) (ly % 2) else .rtr (P.rtrAt (c - 1) ly) 1)
  else if o = 0 then
    if ly = 0 then .edge (c / 2) (c % 2)
    else if P.skipped c = ly then (if P.deadCol c then .gap 1 else .rtr (9 * c + ly) 2)
    else .rtr (P.rtrAt c (ly - 1)) 2
  else
    if ly = 7 then .edge (8 + c / 2) (c % 2)
    else if P.skipped c = ly + 1 then (if P.deadCol c then .gap 0 else .rtr (9 * c + ly + 1) 0)
    else .rtr (P.rtrAt c (ly + 1)) 0

def Package.hop (P : Package) (r o : Nat) : Hop :=
  match P.boleAt r with
  | some k => P.hopLogical k o
  | none =>
    let d := r % 9
    if P.deadCol (r / 9) ∨ d = 0 ∨ d = 8 then .nowhere
    else if o = 0 then .rtr (r - 1) 2
    else if o = 2 then .rtr (r + 1) 0
    else .nowhere

/-- Is the buffer at this input of a router a graft channel receiver? -/
def Package.graftIn (P : Package) (r port : Nat) : Bool :=
  (P.boleAt r).isSome && ((decide (r / 9 = 3) && decide (port = 1)) || (decide (r / 9 = 4) && decide (port = 3)))

def bufCap (graft : Bool) : Nat := if graft then 48 else 16

/-! ### Expected ports (R231) -/

/-- Does a packet from s to d in a ring pass through x, other than as its start? -/
def passes (spans : Bool) (len s d x : Nat) : Bool :=
  let m := dirOf spans len s d
  let far := if m then subMod len s d else subMod len d s
  let near := if m then subMod len s x else subMod len x s
  decide (1 ≤ near ∧ near ≤ far)

/-- Expected ports of the router of bole k for a set and a root, in the order local, west, east, north, south (R233). -/
def Package.expected (P : Package) (e : Env) (k : Nat) (set : McSet) (rx ry : Nat) : List Nat :=
  let g := P.glade k
  let (spanX, spanY) := (decide (g.w = 64 * e.w), decide (g.h = 64 * e.h))
  let (lx, ly) := (64 * e.w, 64 * e.h)
  let (x, y) := (P.boleX k, P.boleY k)
  let viaX (minus : Bool) : Bool := set.hasRow y &&
    (set.cols.any fun mx => decide (dirOf spanX lx mx rx = minus) && passes spanX lx mx rx x)
  let viaY (minus : Bool) : Bool := decide (x = rx) &&
    (set.rows.any fun my => decide (dirOf spanY ly my ry = minus) && passes spanY ly my ry y)
  (if set.has x y then [4] else []) ++ (if viaX false then [3] else []) ++ (if viaX true then [1] else []) ++
    (if viaY false then [0] else []) ++ (if viaY true then [2] else [])

/-! ### Sources at a router -/

/-- A place a flit waits in: stage 0 a virtual-channel buffer (x its VC); a detour buffer (x its direction) at the router
where the detour starts (5), after its first hop (1), at a live router of a skipped row in the partner column (6), after the
Y hop (2), and back in the column (3); stage 4 the combined packets of the router (x their VC); stage 10 + o the branch to
port o of the multicast buffer of this input port (x its VC). -/
structure Src where
  stage : Nat
  port : Nat
  vn : Nat
  x : Nat
  deriving DecidableEq, Repr

def Src.detKey (s : Src) : Nat := 64 * s.stage + 8 * s.port + 2 * s.vn + s.x

/-- A detour buffer that a detour leaves by one of its hops. -/
def Src.passing (s : Src) : Bool := decide (s.stage = 1 ∨ s.stage = 2 ∨ s.stage = 5 ∨ s.stage = 6)

/-- Flits that wait at an input: the router's buffer, or the link's receive region for an outward port (R494). -/
def Package.inFlits (P : Package) (r port vn vc : Nat) : List Flit :=
  match P.hop r port with
  | .edge l side =>
    let L := P.link l
    let q := L.rx.get [] (2 * vn + vc)
    match L.rxHeadSide l (2 * vn + vc) with
    | some s => if s = side then q else []
    | none => q
  | _ => (P.rtr r).buf.get [] (vkey port vn vc)

/-- The first flit of a multicast buffer that still owes a branch. -/
def Router.heldFor (R : Router) (m o : Nat) : Option Flit :=
  ((R.mbuf.get [] m).find? fun x : Flit × List Nat => x.2.contains o).map fun x => x.1

def Package.srcHead (P : Package) (r : Nat) (s : Src) : Option Flit :=
  if s.stage = 0 then (P.inFlits r s.port s.vn s.x).head?
  else if s.stage = 4 then ((P.rtr r).comOut.get [] s.x).head?
  else if 10 ≤ s.stage then (P.rtr r).heldFor (2 * s.port + s.x) (s.stage - 10)
  else ((P.rtr r).detour.get [] s.detKey).head?

/-- Input channel that a source's flits belong to: behind a detour, the port that faces the missing link; port 5 stands for
the router's own combined packets. -/
def Src.inKey (s : Src) (f : Flit) : Nat :=
  if s.stage = 0 ∨ 10 ≤ s.stage then vkey s.port s.vn s.x
  else if s.stage = 4 then vkey 5 2 s.x else vkey (if s.x = 0 then 0 else 2) s.vn f.vc

/-- Channel on which the router's checks follow a source's packets as it reads them (R241). -/
def Src.track (s : Src) (f : Flit) : Nat :=
  if s.stage = 0 then vkey s.port s.vn s.x else if s.stage = 4 then vkey 5 2 s.x else 128 + 2 * s.detKey + f.vc

/-- Half of a multicast buffer behind a VN2 input channel (R224). -/
def mKey (ik : Nat) : Nat := 2 * (ik / 8) + ik % 2

/-- Who holds an output channel for a source's packet (Router.holder). -/
def Src.owner (s : Src) (f : Flit) : Nat := if 10 ≤ s.stage then 1001 + mKey (s.inKey f) else s.inKey f + 1

/-- Flits that wait at a source on its head's channel, in order. -/
def Package.srcFlits (P : Package) (r : Nat) (s : Src) : List Flit :=
  if s.stage = 0 then P.inFlits r s.port s.vn s.x
  else if s.stage = 4 then (P.rtr r).comOut.get [] s.x
  else
    let q := (P.rtr r).detour.get [] s.detKey
    match q with
    | f :: _ => q.filter fun g => g.vc == f.vc
    | [] => []

/-- Drop the branch b of the first held flit that owes it; a flit with no branch left is freed (R224). -/
def dropBranch (b : Nat) : List (Flit × List Nat) → List (Flit × List Nat)
  | [] => []
  | (f, bs) :: l =>
    if bs.contains b then (if bs = [b] then l else (f, bs.filter (· != b)) :: l) else (f, bs) :: dropBranch b l

/-- Take the head flit of a source. -/
def Package.srcPop (P : Package) (e : Env) (r : Nat) (s : Src) : Package :=
  if s.stage = 4 then P.updRtr r fun R => { R with comOut := R.comOut.upd [] s.x fun q => q.drop 1 }
  else if 10 ≤ s.stage then P.updRtr r fun R => { R with mbuf := R.mbuf.upd [] (2 * s.port + s.x) (dropBranch (s.stage - 10)) }
  else if s.stage ≠ 0 then
    P.updRtr r fun R =>
      let q := (R.detour.get [] s.detKey).drop 1
      { R with detour := R.detour.set s.detKey q, detOff := R.detOff.set s.detKey (bufOff false (R.detOff.get false s.detKey) q.length) }
  else match P.hop r s.port with
    | .edge l _ => P.updLinkAt e l fun L => L.rxPop l (2 * s.vn + s.x)
    | _ => P.updRtr r fun R =>
      let key := vkey s.port s.vn s.x
      let q := (R.buf.get [] key).drop 1
      { R with buf := R.buf.set key q, off := R.off.set key (bufOff (P.graftIn r s.port) (R.off.get false key) q.length) }

/-- Change the head flit where it waits. -/
def Package.srcSet (P : Package) (r : Nat) (s : Src) (f : Flit) : Package :=
  let put (q : List Flit) : List Flit := f :: q.drop 1
  if s.stage = 4 then P.updRtr r fun R => { R with comOut := R.comOut.upd [] s.x put }
  else if s.stage ≠ 0 then P.updRtr r fun R => { R with detour := R.detour.upd [] s.detKey put }
  else match P.hop r s.port with
    | .edge l _ => P.updLink l fun L => { L with rx := L.rx.upd [] (2 * s.vn + s.x) put }
    | _ => P.updRtr r fun R => { R with buf := R.buf.upd [] (vkey s.port s.vn s.x) put }

/-! ### Routes (R135, R140) -/

/-- Does a hop out of a port cross the wrap link of its ring (R129)? -/
def crossesWrap (e : Env) (x y o : Nat) : Bool :=
  decide ((o = 1 ∧ x = 64 * e.w - 1) ∨ (o = 3 ∧ x = 0) ∨ (o = 2 ∧ y = 64 * e.h - 1) ∨ (o = 0 ∧ y = 0))

/-- Virtual channel of a flit that leaves by a port: 0 after the turn into Y, 1 across the wrap link (R140). -/
def Package.vcOut (P : Package) (e : Env) (k inPort o vc : Nat) : Nat :=
  if crossesWrap e (P.boleX k) (P.boleY k) o then 1
  else if (o = 0 ∨ o = 2) ∧ inPort ≠ 0 ∧ inPort ≠ 2 then 0 else vc

/-- Output port and virtual channel of a head flit that came in at a port. -/
def Package.route (P : Package) (e : Env) (r inPort : Nat) (h : Head) : Nat × Nat :=
  match P.boleAt r with
  | none => (if inPort = 0 then 2 else 0, h.vc)
  | some k =>
    let (x, y) := (P.boleX k, P.boleY k)
    let o := if h.dstX ≠ x then (if h.dx then 3 else 1) else if h.dstY ≠ y then (if h.dy then 0 else 2) else 4
    (o, P.vcOut e k inPort o h.vc)

/-- Where a flit goes next. -/
inductive Dest
  | bole (k : Nat)
  | buf (r key : Nat) (graft : Bool)
  | egress (l side : Nat)
  | det (r : Nat) (s : Src)
  deriving DecidableEq, Repr

/-- A flit that may leave: the port it leaves by, its output channel, its place after it. -/
structure Move where
  port : Nat
  key : Nat
  vc : Nat
  isDet : Bool
  dest : Dest
  deriving DecidableEq, Repr

/-- May the sender start a flit of this channel towards a place (R172, R173)? -/
def Package.accepts (P : Package) (d : Dest) (ch : Nat) : Bool :=
  match d with
  | .bole k =>
    let n := (P.bole k).ni
    !P.up k || (!n.ejSeen.get false ch && decide ((n.ej.get [] ch).length < 16))
  | .buf r key graft =>
    let R := P.rtr r
    !R.seenOff.get false key && decide ((R.buf.get [] key).length < bufCap graft)
  | .egress l side =>
    let L := P.link l
    !L.egSeen.get false (8 * side + ch) && decide ((L.eg.get [] (8 * side + ch)).length < 16)
  | .det r s =>
    let R := P.rtr r
    !R.detOff.get false s.detKey && decide ((R.detour.get [] s.detKey).length < 16)

def Package.deliver (P : Package) (e : Env) (d : Dest) (ch : Nat) (f : Flit) : Package :=
  match d with
  | .bole k => P.eject k ch (stampAt e.now f)
  | .buf r key graft => P.updRtr r fun R => R.put key graft [stampAt e.now f]
  | .egress l side => P.updLinkAt e l fun L => L.egPut side ch e.now (stampAt e.now f)
  | .det r s => P.updRtr r fun R =>
    let q := R.detour.get [] s.detKey ++ [stampAt e.now f]
    { R with detour := R.detour.set s.detKey q, detOff := R.detOff.set s.detKey (bufOff false (R.detOff.get false s.detKey) q.length) }

/-- The port of column c that faces its partner column (R150). -/
def towardPartner (c : Nat) : Nat := if c % 2 = 0 then 1 else 3

/-- The place behind an output port of router r for one channel. A missing vertical link leads into the router's own detour
buffer (R150, R151). -/
def Package.destOf (P : Package) (r o vn vc : Nat) : Option Dest :=
  match P.hop r o with
  | .bole k => some (.bole k)
  | .rtr r' p' => some (.buf r' (vkey p' vn vc) (P.graftIn r' p'))
  | .edge l side => some (.egress l side)
  | .gap dir => some (.det r { stage := 5, port := o, vn := vn, x := dir })
  | .nowhere => none

/-- The next place of a flit on a detour, and the port it leaves by (R150): over to the partner column, along it, across a
live router of a skipped row there (R491), and back. -/
def Package.detourNext (P : Package) (r : Nat) (s : Src) : Option (Nat × Dest) :=
  let across (stage : Nat) : Option (Nat × Dest) :=
    let o := towardPartner (r / 9)
    match P.hop r o with
    | .rtr r' p' => some (o, .det r' { s with stage := stage, port := p' })
    | _ => none
  let along : Option (Nat × Dest) :=
    let o := if s.x = 0 then 2 else 0
    match P.hop r o with
    | .rtr r' p' => some (o, .det r' { s with stage := if (P.boleAt r').isSome then 2 else 6, port := p' })
    | _ => none
  if s.stage = 5 then across 1 else if s.stage = 1 ∨ s.stage = 6 then along else if s.stage = 2 then across 3 else none

/-- The flits of a VN2 packet at this router belong to another row: MCAST, or a REDUCE that combines here and has not been
flushed (R219, R232, R239). -/
def Package.otherRow (P : Package) (e : Env) (r : Nat) (s : Src) (f : Flit) : Bool :=
  match P.boleAt r with
  | none => false
  | some k =>
    if s.vn ≠ 2 ∨ (s.stage ≠ 0 ∧ s.stage ≠ 3) then false
    else match f.hdr with
      | .follow _ => decide ((P.rtr r).mopen.get 0 (mKey (s.inKey f)) ≠ 0)
      | .head h =>
        if h.op = .mcast then true
        else if h.op = .reduce then
          match P.srcFlits r s with
          | _ :: g :: _ => !bitAt (fld g.data 15 1) 2 && decide (2 ≤ (P.expected e k (setOf g.data) h.dstX h.dstY).length)
          | _ => true
        else false

/-- The output port and channel that a source's head flit asks for, when they are free or its own. -/
def Package.wants (P : Package) (e : Env) (r : Nat) (s : Src) (f : Flit) : Option (Nat × Nat × Nat) :=
  let R := P.rtr r
  match f.hdr with
  | .head h =>
    let (o, vc) := if 10 ≤ s.stage then
        (s.stage - 10, match P.boleAt r with | some k => P.vcOut e k s.port (s.stage - 10) f.vc | none => f.vc)
      else P.route e r (if s.stage = 4 then 0 else s.inKey f / 8) h
    if R.holder.get 0 (vkey o h.vn vc) = 0 then some (o, vc, vkey o h.vn vc) else none
  | .follow _ =>
    (R.holder.find? fun x => decide (x.2 = s.owner f ∧ (s.stage < 10 ∨ x.1 / 8 = s.stage - 10))).map fun x => (x.1 / 8, x.1 % 2, x.1)

/-- The move that a source's head flit asks for, when it can be made now. -/
def Package.moveOf (P : Package) (e : Env) (r : Nat) (s : Src) : Option Move :=
  match P.srcHead r s with
  | none => none
  | some f =>
    let go (port vc key : Nat) (isDet : Bool) (d : Dest) : Option Move :=
      if P.accepts d (2 * f.vn + vc) then some { port := port, key := key, vc := vc, isDet := isDet, dest := d } else none
    if s.passing then
      match P.detourNext r s with
      | some (o, d) => go o f.vc (vkey o f.vn f.vc) true d
      | none => none
    else if P.otherRow e r s f then none
    else match P.wants e r s f with
      | some (o, vc, key) => match P.destOf r o f.vn vc with
        | some d => go o vc key false d
        | none => none
      | none => none

/-! ### Arbitration (R137, R151) -/

/-- Every place of a router in which a flit may wait. -/
def Package.sources (P : Package) (r : Nat) : List Src :=
  let R := P.rtr r
  let bufs : List Src := R.buf.map fun x => { stage := 0, port := x.1 / 8, vn := x.1 % 8 / 2, x := x.1 % 2 }
  let dets : List Src := R.detour.map fun x => { stage := x.1 / 64, port := x.1 % 64 / 8, vn := x.1 % 8 / 2, x := x.1 % 2 }
  let edges : List Src := (List.range 4).flatMap fun o => match P.hop r o with
    | .edge _ _ => (List.range 8).map fun ch => { stage := 0, port := o, vn := ch / 2, x := ch % 2 }
    | _ => []
  let coms : List Src := R.comOut.map fun x => { stage := 4, port := 4, vn := 2, x := x.1 }
  let copies : List Src := R.mbuf.flatMap fun x =>
    (List.range 5).map fun o => { stage := 10 + o, port := x.1 / 2, vn := 2, x := x.1 % 2 }
  bufs ++ dets ++ edges ++ coms ++ copies

/-- Sources that can move through a port now, with their moves. -/
def Package.readyMoves (P : Package) (e : Env) (r port : Nat) : List (Src × Move) :=
  (P.sources r).filterMap fun s => match P.moveOf e r s with
    | some m => if m.port = port then some (s, m) else none
    | none => none

/-- Is a port the end of a graft channel (R22)? -/
def Package.isGraftPort (P : Package) (r o : Nat) : Bool :=
  (P.boleAt r).isSome && decide ((r / 9 = 3 ∧ o = 1) ∨ (r / 9 = 4 ∧ o = 3))

/-- Has a graft channel room for a dynamic flit in this cycle: at most 3 flits of both planes in any 4 cycles (R137)? The
cycles that the schedule reserves count as its flits. -/
def Package.graftRoom (P : Package) (e : Env) (r o : Nat) : Bool :=
  let sent (c : Nat) : Bool := ((P.rtr r).outCyc.get [] o).contains (c + 1)
  (List.range 4).all fun i =>
    decide (((List.range 4).filter fun j =>
      (decide (j = i)) || (decide (i ≤ e.now + j ∧ j ≠ i) &&
        ((decide (j < i) && sent (e.now + j - i)) || P.portReserved { e with now := e.now + j - i } r o))).length ≤ 3)

/-- Has a port carried a dynamic flit in this cycle? -/
def Router.portUsed (R : Router) (o now : Nat) : Bool := (R.outCyc.get [] o).contains (now + 1)

/-- May a port carry a dynamic flit in this cycle: one a cycle, in the cycles that the scheduled plane leaves (R137, R190)? -/
def Package.portFree (P : Package) (e : Env) (r o : Nat) : Bool :=
  !(P.rtr r).portUsed o e.now && !P.portReserved e r o && (!P.isGraftPort r o || P.graftRoom e r o)

/-- Does the router let this source move (R137)? VN3 goes first; VN0 to VN2 take turns by virtual channel; a free
channel goes to inputs in turn; detour flits and others alternate. -/
def Package.grants (P : Package) (e : Env) (r : Nat) (s : Src) (m : Move) : Bool :=
  let R := P.rtr r
  let all := P.readyMoves e r m.port
  let dets := all.filter fun x : Src × Move => x.2.isDet
  let norms := all.filter fun x : Src × Move => !x.2.isDet
  let turn := if dets.isEmpty ∨ norms.isEmpty then true
    else if R.detTurn.get false m.port then !m.isDet else m.isDet
  let peers := if m.isDet then dets else norms
  let urgent := peers.any fun x : Src × Move => x.2.key % 8 / 2 == 3
  let chOk :=
    if urgent then decide (m.key % 8 / 2 = 3)
    else decide (rotPick (R.rrOut.get 5 m.port) 6 (fun ch => peers.any fun x : Src × Move => x.2.key % 8 == ch) = some (m.key % 8))
  let inOk :=
    if R.holder.get 0 m.key ≠ 0 ∨ m.isDet then true
    else decide (rotPick (R.rrIn.get 4 m.key) 5 (fun p => peers.any fun x : Src × Move => x.2.key == m.key && x.1.port == p) = some s.port)
  turn && chOk && inOk && P.portFree e r m.port

/-! ### Checks (R241 to R246, R175, R177) -/

/-- A cut tail for the packet open on a channel (R244). -/
def Chk.cutTail (c : Chk) (f : Flit) : Flit :=
  { hdr := .follow { last := true, vn := f.vn, vc := f.vc, poison := true, age := c.age, idx := c.idx },
    data := List.replicate 64 0 }

/-- What an element passes on of a flit that it checks, and what it then holds of the channel (R242 to R244, R160). -/
def Chk.take (c : Chk) (f : Flit) (ev : HopEvent) : Option Flit × Chk :=
  if ev.codeBad then (none, c)
  else if ev.headerBad then (if c.idx = 0 then none else some (c.cutTail f), {})
  else if f.isHead then
    let g := if ev.payloadBad then f.setPoison else f
    (some g, if f.isLast then {} else { idx := 1, age := f.age, poison := g.poison })
  else if c.idx = 0 then (none, c)
  else
    let g := if ev.payloadBad || c.poison then f.setPoison else f
    (some g, if f.isLast then {} else { c with idx := f.idx + 1, poison := g.poison })

/-- The NI of bole k counts what a check has found (R246, Table 10.5). -/
def Package.hopEvent (P : Package) (k : Nat) (ev : HopEvent) : Package :=
  if ev.codeBad then P.count k cHOPBROKEN 1
  else (P.count k cHOPCORR ev.corrected).count k cHOPBROKEN (b2n ev.headerBad)

/-- Hand an expired head to the NI that R177 names. -/
def Package.expireHead (P : Package) (r : Nat) (h : Head) : Package :=
  P.updNi (P.eventBole r) fun n =>
    let n1 := n.count cEXPIRED
    { n1 with expireLive := some (n1.expireLive.getD h.value) }

/-- The NI that an element's events go to: a router's under R177, an edge adapter's that of its router, the NI's its own. -/
def Package.eventNi (P : Package) : Dest → Nat
  | .bole k => k
  | .buf r _ _ => P.eventBole r
  | .egress l side => (linkBoles l).getD side 0
  | .det r _ => P.eventBole r

/-- Channel on which a receiving router's checks follow the packets that arrive there. -/
def Dest.track (d : Dest) (f : Flit) : Nat :=
  match d with
  | .buf _ key _ => key
  | .det _ s => s.track f
  | _ => 0

def Package.arrChk (P : Package) (d : Dest) (ch : Nat) (f : Flit) : Chk :=
  match d with
  | .bole k => (P.bole k).ni.ejChk.get {} ch
  | .buf r key _ => (P.rtr r).arr.get {} key
  | .egress l side => (P.link l).egChk.get {} (8 * side + ch)
  | .det r s => (P.rtr r).arr.get {} (s.track f)

def Package.setArrChk (P : Package) (d : Dest) (ch : Nat) (f : Flit) (c : Chk) : Package :=
  match d with
  | .bole k => P.updNi k fun n => { n with ejChk := n.ejChk.set ch c }
  | .buf r key _ => P.updRtr r fun R => { R with arr := R.arr.set key c }
  | .egress l side => P.updLink l fun L => { L with egChk := L.egChk.set (8 * side + ch) c }
  | .det r s => P.updRtr r fun R => { R with arr := R.arr.set (s.track f) c }

/-- A flit reaches the element behind an output, which checks it; one that it discards never occupies a slot (R241 to R244).
-/
def Package.arriveAt (P : Package) (e : Env) (d : Dest) (ch : Nat) (f : Flit) (ev : HopEvent) : Package :=
  let (g, c) := (P.arrChk d ch f).take f ev
  let P1 := (P.setArrChk d ch f c).hopEvent (P.eventNi d) ev
  match g with
  | some g => P1.deliver e d ch g
  | none => P1

/-- The check of a source's head flit as it is read: what it finds is applied to the flit where it waits, or the flit is
discarded. none: nothing is left to forward. -/
def Package.checkHop (P : Package) (e : Env) (r : Nat) (s : Src) (f : Flit) (ev : HopEvent) : Package × Option Flit :=
  let P1 := P.hopEvent (P.eventBole r) ev.ofRead
  match ((P.rtr r).chk.get {} (s.track f)).take f ev.ofRead with
  | (some g, _) => (if g = f then P1 else P1.srcSet r s g, some g)
  | (none, c) => ((P1.srcPop e r s).updRtr r fun R => { R with chk := R.chk.set (s.track f) c }, none)

/-! ### Moving -/

/-- The books of a router when a flit of a source leaves by an output channel. -/
def Router.passed (R : Router) (s : Src) (m : Move) (f : Flit) (now : Nat) : Router :=
  let R1 : Router := { R with
    rrOut := if m.key % 8 < 6 then R.rrOut.set m.port (m.key % 8) else R.rrOut
    detTurn := R.detTurn.set m.port m.isDet
    outCyc := R.outCyc.upd [] m.port fun l => ((now + 1) :: l).take 3 }
  if s.passing then R1
  else { R1 with
    rrIn := if f.isHead then R1.rrIn.set m.key s.port else R1.rrIn
    holder := R1.holder.set m.key (if f.isLast then 0 else s.owner f)
    holdAge := R1.holdAge.set m.key (if f.isLast then 0 else f.age + 1) }

/-- Forward one flit, already checked: VC and POISON are all that change (R160). -/
def Package.moveFlit (P : Package) (e : Env) (r : Nat) (s : Src) (m : Move) (f : Flit) (arrive : HopEvent) : Package :=
  let P1 := (P.srcPop e r s).updRtr r fun R => R.passed s m f e.now
  P1.arriveAt e m.dest (2 * f.vn + m.vc) (if s.passing then f else f.setVc m.vc) arrive

/-- Discard an expired flit at the head of a source (R176). -/
def Package.discardExpired (P : Package) (e : Env) (r : Nat) (s : Src) (f : Flit) : Package :=
  let P1 := P.srcPop e r s
  match f.hdr with
  | .head h => P1.expireHead r h
  | .follow _ => P1

/-- One source's turn: expiry, the check as it is read, then the move if the router grants it. -/
def Package.forwardSrc (P : Package) (e : Env) (r : Nat) (s : Src) (read arrive : HopEvent) : Package :=
  match P.srcHead r s with
  | none => P
  | some f0 =>
    if expired P.tick f0.age then P.discardExpired e r s f0
    else match P.checkHop e r s f0 read with
      | (P1, none) => P1
      | (P1, some f) => match P1.moveOf e r s with
        | some m =>
          if P1.grants e r s m then
            (P1.moveFlit e r s m f arrive).updRtr r fun R =>
              { R with chk := R.chk.upd {} (s.track f) fun c => (c.take f .clean).2 }
          else P1
        | none => P1

/-- The sources that a ROUTER_FORWARD may name: the virtual-channel buffer, the router's combined packets at the bole port,
and the detour buffers of that port whose head travels on that channel. -/
def Package.candidates (P : Package) (r port vn vc : Nat) : List Src :=
  { stage := 0, port := port, vn := vn, x := vc } ::
    (P.sources r).filter fun s : Src => decide (s.stage ≠ 0 ∧ s.stage < 10 ∧ s.port = port ∧ s.vn = vn) &&
      (match P.srcHead r s with | some f => decide (f.vc = vc) | none => false)

/-- Of these, the first that may go, else the first at which a flit waits. -/
def Package.pickSrc (P : Package) (e : Env) (r port vn vc : Nat) : Src :=
  let cs := P.candidates r port vn vc
  let movable (s : Src) : Bool := match P.moveOf e r s with | some m => P.grants e r s m | none => false
  match cs.find? movable with
  | some s => s
  | none => (cs.find? fun s => (P.srcHead r s).isSome).getD { stage := 0, port := port, vn := vn, x := vc }

/-- Does one of these sources ask for a port that has carried a flit in this cycle (R137)? -/
def Package.portsUsed (P : Package) (e : Env) (r : Nat) (ss : List Src) : Bool :=
  ss.any fun s => match P.moveOf e r s with
    | some m => (P.rtr r).portUsed m.port e.now
    | none => false

def Port.num : Port → Nat
  | .north => 0 | .east => 1 | .south => 2 | .west => 3 | .bole => 4

def execRouterForward (p : PkgId) (r : RtrIx) (port : Port) (vn : Fin 4) (vc : Fin 2) (read : HopEvent) (s : State)
    (arrive : HopEvent := {}) : Host.Outcome State Fault Refusal :=
  let s1 := s.inCycle ((s.pkg p).live &&
    (s.pkg p).portsUsed (s.env p) r ((s.pkg p).candidates r (Port.num port) vn vc))
  .next (s1.onLive p fun P =>
    let e := s1.env p
    P.forwardSrc e r (P.pickSrc e r (Port.num port) vn vc) read arrive)

/-! ### On and off (R172) -/

/-- The state of a receiver's buffer reaches its sender: a router's input; at the bole port the NI's ejection buffer too;
at an outward port the adapter's egress buffer (the input there is the link's region). -/
def Package.signal (P : Package) (r port vn vc : Nat) : Package :=
  let key := vkey port vn vc
  let ch := 2 * vn + vc
  let P1 := P.updRtr r fun R => { R with seenOff := R.seenOff.set key (R.off.get false key) }
  match P.hop r port with
  | .bole k => P1.updNi k fun n => { n with ejSeen := n.ejSeen.set ch (n.ejOff.get false ch) }
  | .edge l side => P1.updLink l fun L => { L with egSeen := L.egSeen.set (8 * side + ch) (L.egOff.get false (8 * side + ch)) }
  | _ => P1

def execOnoffSignal (p : PkgId) (r : RtrIx) (port : Port) (vn : Fin 4) (vc : Fin 2) (s : State) :
    Host.Outcome State Fault Refusal :=
  .next (s.onLive p fun P => P.signal r (Port.num port) vn vc)

end Sys2Proof.Machine
end

