-- ==== Sys2Proof/Machine/Float.lean ====
section
/-! DEFINITION. Number formats and their arithmetic: exact sums rounded to nearest even (R163, R235, R324). -/

namespace Sys2Proof

/-- A binary format: exponent bits, fraction bits, whether its top exponent is ordinary but for one NaN (E4M3), and the
canonical NaN. -/
structure FFmt where
  eb : Nat
  mb : Nat
  finiteTop : Bool
  nan : Nat
  deriving DecidableEq, Repr

def fFp64 : FFmt := { eb := 11, mb := 52, finiteTop := false, nan := 0x7FF8000000000000 }
def fFp32 : FFmt := { eb := 8, mb := 23, finiteTop := false, nan := 0x7FC00000 }
def fBf16 : FFmt := { eb := 8, mb := 7, finiteTop := false, nan := 0x7FC0 }
def fE4m3 : FFmt := { eb := 4, mb := 3, finiteTop := true, nan := 0x7F }
def fE5m2 : FFmt := { eb := 5, mb := 2, finiteTop := false, nan := 0x7E }

def FFmt.bias (f : FFmt) : Nat := 2 ^ (f.eb - 1) - 1
def FFmt.signBit (f : FFmt) : Nat := 2 ^ (f.eb + f.mb)

/-- A value: NaN, an infinity, or sign and m * 2 ^ (e - 2000). -/
inductive FVal
  | nan
  | inf (neg : Bool)
  | fin (neg : Bool) (m e : Nat)
  deriving DecidableEq, Repr

/-- Offset of the exponent e of FVal.fin. -/
def fOff : Nat := 2000

def FFmt.decode (f : FFmt) (w : Nat) : FVal :=
  let neg := decide (1 ≤ (w / f.signBit) % 2)
  let ex := (w / 2 ^ f.mb) % 2 ^ f.eb
  let fr := w % 2 ^ f.mb
  if f.finiteTop then
    if ex = 2 ^ f.eb - 1 ∧ fr = 2 ^ f.mb - 1 then .nan
    else if ex = 0 then .fin neg fr (fOff + 1 - f.bias - f.mb) else .fin neg (2 ^ f.mb + fr) (fOff + ex - f.bias - f.mb)
  else if ex = 2 ^ f.eb - 1 then (if fr = 0 then .inf neg else .nan)
  else if ex = 0 then .fin neg fr (fOff + 1 - f.bias - f.mb)
  else .fin neg (2 ^ f.mb + fr) (fOff + ex - f.bias - f.mb)

def FFmt.withSign (f : FFmt) (neg : Bool) (w : Nat) : Nat := (if neg then f.signBit else 0) + w

/-- What an overflow gives (Table 9.5). -/
def FFmt.overflow (f : FFmt) (neg : Bool) : Nat :=
  f.withSign neg (if f.finiteTop then (2 ^ f.eb - 1) * 2 ^ f.mb + (2 ^ f.mb - 2) else (2 ^ f.eb - 1) * 2 ^ f.mb)

/-- m / 2 ^ k to the nearest integer, ties to even. -/
def rneShift (m k : Nat) : Nat :=
  let q := m / 2 ^ k
  let r := m % 2 ^ k
  if 2 * r < 2 ^ k then q else if 2 ^ k < 2 * r then q + 1 else if q % 2 = 0 then q else q + 1

/-- Round m * 2 ^ (e - 2000) to a format. -/
def FFmt.round (f : FFmt) (neg : Bool) (m e : Nat) : Nat :=
  if m = 0 then f.withSign neg 0
  else
    let p := f.mb + 1
    let emin := fOff + 1 - f.bias - f.mb
    let q := max (e + (m.log2 + 1) - p) emin
    let m1 := if q ≤ e then m * 2 ^ (e - q) else rneShift m (q - e)
    let m2 := if m1 = 2 ^ p then 2 ^ (p - 1) else m1
    let q2 := if m1 = 2 ^ p then q + 1 else q
    if m2 < 2 ^ (p - 1) then f.withSign neg m2
    else
      let ex := q2 - emin + 1
      let fr := m2 - 2 ^ (p - 1)
      if f.finiteTop then
        (if 2 ^ f.eb ≤ ex ∨ (ex = 2 ^ f.eb - 1 ∧ fr = 2 ^ f.mb - 1) then f.overflow neg
         else f.withSign neg (ex * 2 ^ f.mb + fr))
      else if 2 ^ f.eb - 1 ≤ ex then f.overflow neg
      else f.withSign neg (ex * 2 ^ f.mb + fr)

def FFmt.encode (f : FFmt) : FVal → Nat
  | .nan => f.nan
  | .inf neg => f.overflow neg
  | .fin neg m e => f.round neg m e

/-- The exact sum of two values (R235). -/
def FVal.add : FVal → FVal → FVal
  | .nan, _ | _, .nan => .nan
  | .inf a, .inf b => if a = b then .inf a else .nan
  | .inf a, _ | _, .inf a => .inf a
  | .fin na ma ea, .fin nb mb eb =>
    let e := min ea eb
    let a := ma * 2 ^ (ea - e)
    let b := mb * 2 ^ (eb - e)
    if na = nb then .fin na (a + b) e
    else if a = b then .fin false 0 e
    else if b < a then .fin na (a - b) e else .fin nb (b - a) e

/-- a < b, both not NaN; -0 stands below +0. -/
def FVal.lt : FVal → FVal → Bool
  | .nan, _ | _, .nan => false
  | .inf a, .inf b => a && !b
  | .inf a, _ => a
  | _, .inf b => !b
  | .fin na ma ea, .fin nb mb eb =>
    let e := min ea eb
    let a := ma * 2 ^ (ea - e)
    let b := mb * 2 ^ (eb - e)
    if na && !nb then true
    else if !na && nb then false
    else if na then decide (b < a) else decide (a < b)

def FVal.isNan : FVal → Bool
  | .nan => true
  | _ => false

def FVal.max2 (a b : FVal) : FVal := if a.isNan || b.isNan then .nan else if a.lt b then b else a
def FVal.min2 (a b : FVal) : FVal := if a.isNan || b.isNan then .nan else if b.lt a then b else a

/-- a + b in one format. -/
def FFmt.add (f : FFmt) (a b : Nat) : Nat := f.encode ((f.decode a).add (f.decode b))
def FFmt.max2 (f : FFmt) (a b : Nat) : Nat := f.encode ((f.decode a).max2 (f.decode b))
def FFmt.min2 (f : FFmt) (a b : Nat) : Nat := f.encode ((f.decode a).min2 (f.decode b))
/-- Convert from one format to another, rounding once. -/
def FFmt.convert (f g : FFmt) (a : Nat) : Nat := g.encode (f.decode a)

/-- Signed comparison of w-bit numbers. -/
def sltN (w a b : Nat) : Bool := decide ((a + 2 ^ (w - 1)) % 2 ^ w < (b + 2 ^ (w - 1)) % 2 ^ w)
def smaxN (w a b : Nat) : Nat := if sltN w a b then b else a
def sminN (w a b : Nat) : Nat := if sltN w b a then b else a

end Sys2Proof
end

