-- ==== Sys2Proof/Machine/Requests.lean ====
section
/-! DEFINITION. Requests at their destination and answers at their requester: WRITE to ATOMIC_RESULT,
REASSEMBLY_RELEASE, DEDUP_EVICT, ALIVE_ENTRY_FREE, QUARANTINE_END (R163 to R170, R249 to R265). -/

namespace Sys2Proof.Machine

/-! ### What a request asks for -/

/-- A VN0 request as its packet spells it (Table 7.3, Table 7.4). -/
structure Req where
  h : Head
  fs : List Flit
  p : List Byte
  deriving DecidableEq, Repr

def Req.aop (r : Req) : Nat := fld r.p 0 1
def Req.width (r : Req) : Nat := if r.aop = 0 ∨ r.aop = 2 ∨ r.aop = 6 ∨ r.aop = 7 then 4 else 8
def Req.fetches (r : Req) : Bool := bitAt (fld r.p 1 1) 0
def Req.count (r : Req) : Nat := fld r.p 56 1
def Req.granules (r : Req) : Nat := bits (fld r.p 4 1) 4 0 + 1
def Req.reply (r : Req) : Nat := if r.h.op = .read then fld r.p 0 4 else fld r.p 4 4

/-- Bytes that it touches at LOCAL. A COUNT of 0 and a reserved AOP name no number of bytes: LOCAL itself is judged (DEDUCED,
log 47: Table 7.5's order comes before the operand's own check). -/
def Req.span (r : Req) : Nat :=
  match r.h.op with
  | .write => 64 * r.fs.length
  | .writeShort => max 1 r.count
  | .read => 64 * r.granules
  | .atomic => if r.aop ≤ 9 then r.width else 1
  | _ => 0

/-- A READ of NI_ID, the one register that a packet reaches (R169). -/
def Req.readsId (r : Req) : Bool := decide (r.h.op = .read ∧ r.h.loc = 0x01000000 ∧ fld r.p 4 1 = 0)

/-- First byte outside what R25, R67 and R169 let through. -/
def Package.badByte (P : Package) (k : Nat) (r : Req) : Option Nat :=
  if r.readsId then none
  else ((List.range r.span).find? fun i => !P.memOk k (r.h.loc + i) 1).map (r.h.loc + ·)

/-- Alignment as Table 7.3 and Table 7.4 require. -/
def Req.misaligned (r : Req) : Bool :=
  match r.h.op with
  | .write => decide (r.h.loc % 64 ≠ 0)
  | .read => decide (r.h.loc % 64 ≠ 0 ∨ r.reply % 64 ≠ 0)
  | .writeShort => decide (64 < r.h.loc % 64 + r.span)
  | .atomic => (decide (r.aop ≤ 9) && decide (r.h.loc % r.width ≠ 0)) || (r.fetches && decide (r.reply % 8 ≠ 0))
  | _ => false

def Req.badOperand (r : Req) : Bool :=
  match r.h.op with
  | .atomic => decide (9 < r.aop)
  | .writeShort => decide (r.count = 0 ∨ 56 < r.count)
  | .signal => decide (255 < fld r.p 0 2)
  | _ => false

/-- Status of the first failing check in the order of Table 7.5, and the address it names; 0 when none fails. -/
def Package.check (P : Package) (k : Nat) (r : Req) : Nat × Nat :=
  match P.badByte k r with
  | some a => (1, a)
  | none =>
    if r.misaligned then (2, r.h.loc)
    else if pktPoison r.fs then (3, r.h.loc)
    else if r.badOperand then (4, r.h.loc)
    else (0, 0)

/-! ### Answers -/

/-- An answer to a packet: SRC and DST exchanged, same TAG and ALIVE, ORD 0 (R162). -/
def Package.answer (P : Package) (e : Env) (k : Nat) (h : Head) (op : PktOp) (loc n : Nat) (payload : List Byte)
    (poisoned : List Bool) : Package :=
  let h' : Head := { P.mkHead e k op h.srcX h.srcY loc false h.alive with tag := h.tag }
  P.pushQ e k 1 { what := .pkt (mkPacket h' n payload poisoned) }

def Package.nack (P : Package) (e : Env) (k : Nat) (h : Head) (st a : Nat) : Package :=
  P.answer e k h .nack 0 1 (leBytes 1 st ++ [0, 0, 0] ++ leBytes 4 a) []

def Package.ackTo (P : Package) (e : Env) (k : Nat) (h : Head) : Package := P.answer e k h .ack 0 1 [] []

/-- NI_ID of bole k. -/
def niId (k : Nat) : Nat := 0x4E49 + 2 ^ 16 * (k % 8) + 2 ^ 20 * (k / 8) + 0x10000000

/-- Carry out a READ: current data, granule by granule, with the poison of each (R167, R248). -/
def Package.readGran (P : Package) (k a : Nat) : Nat → List Byte × List Bool × Package
  | 0 => ([], [], P)
  | n + 1 =>
    let (bs, p, P1) := P.memRead k a 64
    let (bs', ps, P2) := P1.readGran k (a + 64) n
    (bs ++ bs', p :: ps, P2)

def Package.answerRead (P : Package) (e : Env) (k : Nat) (r : Req) : Package :=
  if r.readsId then P.answer e k r.h .readData r.reply 1 (leBytes 4 (niId k)) []
  else
    let (bs, ps, P1) := P.readGran k r.h.loc r.granules
    P1.answer e k r.h .readData r.reply r.granules bs ps

/-- The new value of an ATOMIC (Table 7.4). A NaN sum of ADD_F32 is a free value: the spec names no NaN here. -/
def Req.newValue (r : Req) (old free : Nat) : Nat :=
  let a := fld r.p 8 8
  let b := fld r.p 16 8
  let a4 := a % 2 ^ 32
  match r.aop with
  | 0 => (old + a4) % 2 ^ 32
  | 1 => (old + a) % 2 ^ 64
  | 2 => if ((fFp32.decode old).add (fFp32.decode a4)).isNan then free else fFp32.add old a4
  | 3 => old &&& a
  | 4 => old ||| a
  | 5 => old ^^^ a
  | 6 => smaxN 32 old a4
  | 7 => sminN 32 old a4
  | 8 => a
  | _ => if old = a then b else old

/-! ### Duplicate suppression (R258 to R263) -/

inductive Class
  | fresh | duplicate | late | ahead | reset | stale | full
  deriving DecidableEq, Repr

def Ni.dedupOf (n : Ni) (x y tag : Nat) : Option Dedup :=
  n.dedup.find? fun d : Dedup => d.srcX == x && d.srcY == y && d.tag == tag

/-- Table 10.4. -/
def Dedup.classOf (d : Dedup) (a : Nat) : Class :=
  let t := subMod 65536 a d.h
  if t = 0 then .duplicate
  else if 65473 ≤ t then (if d.done.getLsbD (65536 - t) then .duplicate else .late)
  else if t ≤ 64 then .ahead
  else if t ≤ 32767 then .reset
  else .stale

def Ni.classify (n : Ni) (h : Head) : Class :=
  match n.dedupOf h.srcX h.srcY h.tag with
  | none => if n.dedup.length < 512 then .fresh else .full
  | some d => if d.vn0 then d.classOf h.alive else .fresh

/-- DONE after the request's shift: bit k is ALIVE a' - k, a' the new H. -/
def Dedup.shifted (d : Dedup) (a : Nat) : BitVec 64 :=
  match d.classOf a with
  | .ahead => (d.done <<< (subMod 65536 a d.h)) ||| 1#64
  | .late => d.done ||| (1#64 <<< (65536 - subMod 65536 a d.h))
  | _ => d.done

/-- Every ALIVE of a - 63 to a - 1 in the window after the shift is done (R261). -/
def Dedup.ordOk (d : Dedup) (a : Nat) : Bool :=
  let w := d.shifted a
  let base := if d.classOf a = .late then 65536 - subMod 65536 a d.h else 0
  (List.range 64).all fun j => j ≤ base || w.getLsbD j

/-- Is an ALIVE within the DONE window of H? -/
def inDone (h a : Nat) : Bool := decide (subMod 65536 h a ≤ 63)

/-- The entry after a request is carried out with this status, at this tick (R259, R260). -/
def Dedup.carried (d : Dedup) (a st tick : Nat) (fetch : Option Nat) : Dedup :=
  let c := d.classOf a
  let h' := if c = .ahead ∨ c = .reset then a else d.h
  let done := if c = .reset then BitVec.allOnes 64 else d.shifted a
  let code := if c = .reset then [] else d.code.filter fun x => inDone h' x.1
  let fs := if c = .reset then [] else d.fetch.filter fun x => inDone h' x.1
  { d with h := h', done := done, last := tick, code := code ++ [(a, st)],
           fetch := match fetch with | some v => fs ++ [(a, v)] | none => fs }

def Dedup.fresh (h : Head) (st tick : Nat) (fetch : Option Nat) : Dedup :=
  { srcX := h.srcX, srcY := h.srcY, tag := h.tag, h := h.alive, done := BitVec.allOnes 64, code := [(h.alive, st)],
    fetch := match fetch with | some v => [(h.alive, v)] | none => [], last := tick }

def Ni.updDedup (n : Ni) (h : Head) (f : Dedup → Dedup) : Ni :=
  { n with dedup := n.dedup.map fun d =>
      if d.srcX = h.srcX ∧ d.srcY = h.srcY ∧ d.tag = h.tag then f d else d }

/-- The suppression table after a request of a class that is carried out. -/
def Ni.mark (n : Ni) (h : Head) (st tick : Nat) (fetch : Option Nat) : Ni :=
  if (n.dedupOf h.srcX h.srcY h.tag).isSome then
    n.updDedup h fun d => if d.vn0 then d.carried h.alive st tick fetch else { Dedup.fresh h st tick fetch with mc := d.mc }
  else { n with dedup := n.dedup ++ [Dedup.fresh h st tick fetch] }

/-! ### Carrying out -/

/-- The effect and the answer of a request that passes its checks. free is a free value for ADD_F32. -/
def Package.perform (P : Package) (e : Env) (k : Nat) (r : Req) (free : Nat) : Package × Option Nat :=
  match r.h.op with
  | .write => ((P.memWrite k r.h.loc (payloadOf r.fs)).ackTo e k r.h, none)
  | .writeShort => ((P.memWrite k r.h.loc (r.p.take r.count)).ackTo e k r.h, none)
  | .read => (P.answerRead e k r, none)
  | .signal =>
    ((P.updBole k fun b => b.updColl fun c => c.addCtr (fld r.p 0 2) (fld r.p 4 4)).ackTo e k r.h, none)
  | .atomic =>
    let (bs, bad, P1) := P.memRead k r.h.loc r.width
    let old := leNat bs
    let P2 := P1.memWrite k r.h.loc (leBytes r.width (r.newValue old free))
    if r.fetches then (P2.answer e k r.h .atomicResult r.reply 1 (leBytes 8 old) [bad], some old)
    else (P2.ackTo e k r.h, none)
  | _ => (P, none)

/-- A request of a class that is carried out: its checks, its effect, its answer, its entry (R166, R259). -/
def Package.carryOut (P : Package) (e : Env) (k : Nat) (r : Req) (free : Nat) : Package :=
  let (st, a) := P.check k r
  if st ≠ 0 then (P.nack e k r.h st a).updNi k fun n => n.mark r.h st P.tick none
  else
    let (P1, fetch) := P.perform e k r free
    P1.updNi k fun n => n.mark r.h 0 P.tick fetch

/-- A duplicate is answered again as the first time (R260). free gives the status of an ALIVE that no answer has stood
for, and lost the value of a FETCH slot that is gone. -/
def Package.answerAgain (P : Package) (e : Env) (k : Nat) (r : Req) (d : Dedup) (free : Nat) (lost : Nat) : Package :=
  let st := match d.code.find? fun x => x.1 == r.h.alive with | some x => x.2 | none => free % 8
  let P1 := (P.updNi k fun n => n.updDedup r.h fun d => { d with last := P.tick }).count k cDUP
  if st ≠ 0 then P1.nack e k r.h st (P1.check k r).2
  else match r.h.op with
    | .read => P1.answerRead e k r
    | .atomic =>
      if r.fetches then
        let v := match d.fetch.find? fun x => x.1 == r.h.alive with | some x => x.2 | none => lost
        P1.answer e k r.h .atomicResult r.reply 1 (leBytes 8 v) []
      else P1.ackTo e k r.h
    | _ => P1.ackTo e k r.h

/-- A VN0 request whose packet is whole and sound (R249, R259, R261, R263). -/
def Package.request (P : Package) (e : Env) (k : Nat) (r : Req) (ctr : Nat) : Package :=
  let n := (P.bole k).ni
  let (st, a) := P.check k r
  if st = 3 then P.nack e k r.h st a
  else
    let nan := (Config.atomicNan ctr).toNat
    match n.classify r.h with
    | .full => P.count k cDEDUPFULL
    | .stale => P.count k cSTALE
    | .fresh | .reset => P.carryOut e k r nan
    | .duplicate =>
      match n.dedupOf r.h.srcX r.h.srcY r.h.tag with
      | some d => P.answerAgain e k r d (Config.doneCode ctr) (Config.lostFetch ctr).toNat
      | none => P
    | .late | .ahead =>
      match n.dedupOf r.h.srcX r.h.srcY r.h.tag with
      | some d => if r.h.ord && !d.ordOk r.h.alive then P.count k cGAPDROP else P.carryOut e k r nan
      | none => P

/-- The oldest gathered packet of a VN0 opcode: quarantine and abort (R265, R427), form (R165), ECRC (R249). -/
def Package.takeRequest (P : Package) (e : Env) (k : Nat) (op : PktOp) (ctr : Nat) : Package :=
  match (P.bole k).ni.take op with
  | none => P
  | some (h, fs, n) =>
    let P1 := P.updNi k fun _ => n
    if n.aborting || n.quarantine.isSome then P1.count k cQUARANTINE
    else if malformed op fs then P1.updNi k fun n => n.badPacket h
    else if !pktPoison fs && !ecrcGood fs then P1.count k cECRC
    else P1.request e k { h := h, fs := fs, p := payloadOf fs } ctr

/-- One request row: a free value is at hand (log 5). -/
def State.requestRow (s : State) (p k : Nat) (op : PktOp) : State :=
  s.bump.onBole p k fun e P => P.takeRequest e k op s.freeCtr

/-- What the WRITE which the NI takes next meets in memory: the leaf banks it lands in (R59), and errors there (R247). -/
def Package.writeMeets (P : Package) (k : Nat) (c : MemCond) : Package :=
  match (P.bole k).ni.take .write with
  | some (h, fs, _) =>
    let n := 64 * fs.length
    (P.contest k (match regionOf k h.loc n with | .leaf a => leafBanks a n | _ => [])
      (c.asks.filter fun x => !x.lanes.isEmpty)).upset k h.loc n c.upsets
  | none => P

def execWrite (p : PkgId) (k : BoleIx) (s : State) (c : MemCond := {}) : Host.Outcome State Fault Refusal :=
  .next ((s.onBole p k fun _ P => P.writeMeets k c).requestRow p k .write)
def execWriteShort (p : PkgId) (k : BoleIx) (s : State) : Host.Outcome State Fault Refusal :=
  .next (s.requestRow p k .writeShort)
def execRead (p : PkgId) (k : BoleIx) (s : State) : Host.Outcome State Fault Refusal := .next (s.requestRow p k .read)
def execAtomic (p : PkgId) (k : BoleIx) (s : State) : Host.Outcome State Fault Refusal := .next (s.requestRow p k .atomic)
def execSignal (p : PkgId) (k : BoleIx) (s : State) : Host.Outcome State Fault Refusal := .next (s.requestRow p k .signal)

/-! ### Answers at the requester (R250, R255, R257) -/

/-- An answer releases one reservation of its request (R184). -/
def dropResv (dx dy alive : Nat) : List Resv → List Resv
  | [] => []
  | r :: rs => if r.dstX = dx ∧ r.dstY = dy ∧ r.alive = alive then rs else r :: dropResv dx dy alive rs

/-- The first bad answer makes the resend due at once; the second one to a resent request ends it. -/
def Package.badAnswer (P : Package) (k : Nat) (r : ReqRec) : Package :=
  let P1 := P.updNi k fun n => { n with reqs := n.reqs.map fun x => if x = r then { x with bad := x.bad + 1 } else x }
  if r.resent then (if 1 ≤ r.bad then P1.endDest k r.dstX r.dstY else P1)
  else P1.updNi k fun n => n.makeDue (fun x => decide (x.dstX = r.dstX ∧ x.dstY = r.dstY ∧ x.alive = r.alive)) fun _ => P.tick

/-- Fault code of a final NACK. -/
def nackFault (st : Nat) : Nat := if st = 1 then fcAddress else if st = 2 then fcAlignment else fcBadOperand

/-- The first answer received ends its request, and writes what it brings. -/
def Package.goodAnswer (P : Package) (k : Nat) (r : ReqRec) (h : Head) (fs : List Flit) : Package :=
  let P1 := P.updNi k fun n => { n with reqs := n.reqs.filter fun x : ReqRec => decide (x ≠ r) }
  match h.op with
  | .readData => (P1.memWrite k h.loc (payloadOf fs)).opEnds k r.op false
  | .atomicResult => (P1.memWrite k h.loc ((payloadOf fs).take 8)).opEnds k r.op false
  | .nack => (P1.fault k (nackFault (fld (payloadOf fs) 0 1)) (fld (payloadOf fs) 4 4)).opEnds k r.op true
  | _ => P1.opEnds k r.op false

def Package.answerArrives (P : Package) (k : Nat) (h : Head) (fs : List Flit) : Package :=
  let P1 := P.updNi k fun n => { n with resv := dropResv h.srcX h.srcY h.alive n.resv }
  match ((P1.bole k).ni.reqsTo h.srcX h.srcY).find? fun r : ReqRec => r.alive == h.alive with
  | none => P1.count k cDUPANSWER
  | some r =>
    let st := fld (payloadOf fs) 0 1
    let badNack := decide (h.op = .nack) && decide (st = 0 ∨ st = 3 ∨ 5 ≤ st)
    if pktPoison fs || !ecrcGood fs || badNack then P1.badAnswer k r else P1.goodAnswer k r h fs

def Package.takeAnswer (P : Package) (k : Nat) (op : PktOp) : Package :=
  match (P.bole k).ni.take op with
  | none => P
  | some (h, fs, n) =>
    let P1 := P.updNi k fun _ => n
    if malformed op fs then P1.updNi k fun n => n.badPacket h else P1.answerArrives k h fs

def execReadData (p : PkgId) (k : BoleIx) (s : State) : Host.Outcome State Fault Refusal :=
  .next (s.onBole p k fun e P => (P.niAdvance k e.now).takeAnswer k .readData)
def execAck (p : PkgId) (k : BoleIx) (s : State) : Host.Outcome State Fault Refusal :=
  .next (s.onBole p k fun e P => (P.niAdvance k e.now).takeAnswer k .ack)
def execNack (p : PkgId) (k : BoleIx) (s : State) : Host.Outcome State Fault Refusal :=
  .next (s.onBole p k fun e P => (P.niAdvance k e.now).takeAnswer k .nack)
def execAtomicResult (p : PkgId) (k : BoleIx) (s : State) : Host.Outcome State Fault Refusal :=
  .next (s.onBole p k fun e P => (P.niAdvance k e.now).takeAnswer k .atomicResult)

/-! ### Times -/

/-- A reservation goes at the third tick after its copy's window (R184). -/
def execReassemblyRelease (p : PkgId) (k : BoleIx) (s : State) : Host.Outcome State Fault Refusal :=
  .next (s.onBole p k fun _ P => P.updNi k fun n =>
    { n with resv := n.resv.filter fun r : Resv => decide (P.tick < r.window + 3) })

/-- R262. -/
def execDedupEvict (p : PkgId) (k : BoleIx) (s : State) : Host.Outcome State Fault Refusal :=
  .next (s.onBole p k fun _ P => P.updNi k fun n =>
    { n with dedup := n.dedup.filter fun d : Dedup => decide (P.tick < d.last + 5) })

/-- R264. -/
def execAliveEntryFree (p : PkgId) (k : BoleIx) (dstX dstY : Nat) (s : State) : Host.Outcome State Fault Refusal :=
  .next (s.onBole p k fun e P => P.updNi k fun n =>
    { n with alive := n.alive.filter fun a : AliveEnt =>
        !(a.dstX == dstX && a.dstY == dstY && decide (a.freeAt ≤ e.now) && (n.reqsTo dstX dstY).isEmpty) })

/-- R265. -/
def execQuarantineEnd (p : PkgId) (k : BoleIx) (s : State) : Host.Outcome State Fault Refusal :=
  .next (s.onBole p k fun _ P => P.updNi k fun n =>
    match n.quarantine with
    | some t => if t ≤ P.tick then { n with quarantine := none, dedup := [], alive := [] } else n
    | none => n)

end Sys2Proof.Machine
end

