-- ==== Sys2Proof/Machine/McCore.lean ====
section
/-! DEFINITION. Shared operations of multicast and in-network sums: packets, branches, MACKs, folds (09). -/

namespace Sys2Proof.Machine

/-! ### Multicast packets (R216 to R220) -/

/-- Packets of an operation of g granules (R216, R229). -/
def mcCount (g : Nat) : Nat := ceilDiv g 30

/-- A quadrant: direction bits, EXTX and EXTY (R220). -/
structure Quad where
  dx : Bool
  dy : Bool
  extX : Nat
  extY : Nat
  deriving DecidableEq, Repr

/-- Distance from a to b in a ring, in a direction. -/
def ringDist (len : Nat) (minus : Bool) (a b : Nat) : Nat := if minus then subMod len a b else subMod len b a

/-- The largest distance of the places that a direction serves, none when it serves none. -/
def extent (spans : Bool) (len s : Nat) (places : List Nat) (minus : Bool) : Option Nat :=
  match places.filter fun d => decide (dirOf spans len s d = minus) with
  | [] => none
  | l => some ((l.map (ringDist len minus s)).foldl max 0)

/-- The quadrants of a set from bole k. -/
def Package.quads (P : Package) (e : Env) (k : Nat) (set : McSet) : List Quad :=
  let g := P.glade k
  [(false, false), (false, true), (true, false), (true, true)].filterMap fun (mx, my) =>
    match extent (decide (g.w = 64 * e.w)) (64 * e.w) (P.boleX k) set.cols mx,
          extent (decide (g.h = 64 * e.h)) (64 * e.h) (P.boleY k) set.rows my with
    | some a, some b => some { dx := mx, dy := my, extX := a, extY := b }
    | _, _ => none

/-- The set flit of a multicast packet (Table 9.2). A packet that ends with a part of a granule has the bytes of that part in
ELEMS (DESIGN CHOICE, log 40). -/
def mcSetFlit (op : McOp) (opnum seq npkt attempt tail status : Nat) : List Byte :=
  setFlit op.set opnum (seq + 32 * (npkt - 1) + 1024 * (attempt % 16)) 0 0 false false false tail status 0 0 op.flag

/-- The packets with one SEQ: one per quadrant, their data read from memory now with its poison (R248). -/
def Package.mcSeq (P : Package) (e : Env) (k : Nat) (m : McSrc) (seq : Nat) : List (List Flit) × Package :=
  let n := min 30 (m.op.granules - 30 * seq)
  let (bs, ps, P1) := P.readGran k (m.op.src + 64 * 30 * seq) n
  let pay := List.replicate 64 0 ++ mcSetFlit m.op m.opnum seq m.npkt m.attempt (if seq + 1 = m.npkt then m.tail else 0) m.status ++ bs
  let h0 := P.mkHead e k .mcast 0 0 (m.op.loc + 64 * 30 * seq) false (m.opnum * 32 + seq)
  ((P.quads e k m.op.set).map fun q =>
    mkPacket { h0 with dx := q.dx, dy := q.dy, dstX := q.extX, dstY := q.extY } (n + 2) pay (false :: false :: ps), P1)

/-- All packets of an attempt, SEQ after SEQ. -/
def Package.mcPackets (P : Package) (e : Env) (k : Nat) (m : McSrc) : Nat → List (List Flit) × Package
  | 0 => ([], P)
  | seq + 1 =>
    let (fs, P1) := P.mcPackets e k m seq
    let (gs, P2) := P1.mcSeq e k m seq
    (fs ++ gs, P2)

/-- Register a multicast operation at its source: a third one waits (R229). -/
def Ni.newMc (n : Ni) (op : McOp) (coll : Option (Nat × Nat × Nat)) (status tail : Nat) (chain : Option Nat) : Ni × McSrc :=
  let m : McSrc := { opnum := n.nextOpnum, op := op, npkt := mcCount op.granules, coll := coll, status := status, tail := tail,
                     chain := chain, started := decide (n.mc.length < 2) }
  ({ n with mc := n.mc ++ [m], nextOpnum := (n.nextOpnum + 1) % 2048 }, m)

/-- Push packets of VN2: straight to the queue, or through the lane of the collective they belong to (R299). -/
def Package.pushVn2 (P : Package) (e : Env) (k : Nat) (coll : Option (Nat × Nat × Nat)) (fss : List (List Flit)) : Package :=
  match coll with
  | none => fss.foldl (fun P fs => P.pushQ e k 2 { what := .pkt fs }) P
  | some (g, ep, lane) => P.updBole k fun b => b.updColl fun c =>
    { c with laneReady := c.laneReady.upd [] lane fun l => l ++ fss.map fun fs => { flits := fs, group := g, epoch := ep } }

/-- Push one attempt of an operation. -/
def Package.mcPush (P : Package) (e : Env) (k : Nat) (m : McSrc) : Package :=
  let (fss, P1) := P.mcPackets e k m m.npkt
  let P2 := P1.updNi k fun n => { n with mc := n.mc.map fun x : McSrc =>
    if x.opnum = m.opnum then { x with left := fss.length } else x }
  P2.pushVn2 e k m.coll fss

/-- Start a multicast operation, or let it wait behind two incomplete ones (R229). tail: bytes of its last granule that are
sent, 0 for all. -/
def Package.mcStart (P : Package) (e : Env) (k : Nat) (op : McOp) (coll : Option (Nat × Nat × Nat)) (status : Nat)
    (tail : Nat := 0) (chain : Option Nat := none) : Package :=
  let (n, m) := (P.bole k).ni.newMc op coll status tail chain
  let P1 := P.updNi k fun _ => n
  if m.started then P1.mcPush e k m else P1

/-- Operations that have come among the two oldest start. -/
def Package.mcNext (P : Package) (e : Env) (k : Nat) : Package :=
  (((P.bole k).ni.mc.take 2).filter fun m : McSrc => !m.started).foldl (fun P m =>
    (P.updNi k fun n => { n with mc := n.mc.map fun x : McSrc => if x.opnum = m.opnum then { x with started := true } else x }).mcPush
      e k m) P

/-! ### Branches (R221, R222, R225) -/

/-- Branches of a multicast packet that came in at a port of the router of bole k: output ports. -/
def Package.branches (P : Package) (e : Env) (k inPort : Nat) (h : Head) (set : McSet) : List Nat :=
  let (x, y) := (P.boleX k, P.boleY k)
  let dx := ringDist (64 * e.w) h.dx h.srcX x
  let dy := ringDist (64 * e.h) h.dy h.srcY y
  let served := set.hasCol x && decide (dx ≤ h.dstX) && (!h.dx || decide (1 ≤ dx))
  if inPort = 0 ∨ inPort = 2 then
    (if set.hasRow y then [4] else []) ++ (if dy < h.dstY then [if h.dy then 0 else 2] else [])
  else
    (if served && !h.dy && set.hasRow h.srcY then [4] else []) ++
    (if served && decide (1 ≤ h.dstY) then [if h.dy then 0 else 2] else []) ++
    (if dx < h.dstX then [if h.dx then 3 else 1] else [])

/-- A MACK of bole k for an attempt (R225, R226). -/
def Package.mack (P : Package) (e : Env) (k : Nat) (h : Head) (set : McSet) (opnum attempt pruned status : Nat) : List Flit :=
  let bit (i : Option Nat) : Nat := match i with | some j => if pruned = 0 then 0 else 2 ^ j | none => 0
  let pay := List.replicate 64 0 ++
    setFlit set 0xFFF (opnum + 2048 * (attempt % 16)) 3 0 false true false 0 status 1 pruned 0 ++
    leBytes 64 (bit (set.colIx (P.boleX k))) ++ padTo 64 (leBytes 32 (bit (set.rowIx (P.boleY k))))
  mkPacket { P.mkHead e k .reduce h.srcX h.srcY 0 false 0 with tag := h.tag } 4 pay []

/-! ### Arithmetic of sums (R233 to R236) -/

/-- Bytes of an element on the wire (Table 9.5). -/
def redSize (fmt : Nat) (wide : Bool) : Nat := if wide then 4 else if fmt = 1 then 2 else if fmt = 2 ∨ fmt = 3 then 1 else 4

def redFmt (fmt : Nat) (wide : Bool) : FFmt :=
  if wide then fFp32 else if fmt = 1 then fBf16 else if fmt = 2 then fE4m3 else if fmt = 3 then fE5m2 else fFp32

/-- One element folded: SUM, MAX, MIN. -/
def foldElem (rop fmt : Nat) (wide : Bool) (a b : Nat) : Nat :=
  if fmt = 4 then
    (if rop = 0 then (a + b) % 2 ^ 32 else if rop = 1 then smaxN 32 a b else sminN 32 a b)
  else
    let f := redFmt fmt wide
    if rop = 0 then f.add a b else if rop = 1 then f.max2 a b else f.min2 a b

def elemsOf (size n : Nat) (bs : List Byte) : List Nat := (List.range n).map fun i => fld bs (size * i) size
def bytesOf (size : Nat) (vs : List Nat) : List Byte := vs.flatMap (leBytes size)

/-- Widen data-format elements to FP32 (R236). -/
def widen (fmt : Nat) (v : Nat) : Nat := if fmt = 4 ∨ fmt = 0 then v else (redFmt fmt false).convert fFp32 v
def narrow (fmt : Nat) (v : Nat) : Nat := if fmt = 4 ∨ fmt = 0 then v else fFp32.convert (redFmt fmt false) v

/-- Data of a body in the width that its key's sums have: wide with ACC (R236). -/
def RedBody.widened (b : RedBody) : RedBody :=
  if b.acc && !b.wide then
    { b with wide := true, data := bytesOf 4 ((elemsOf (redSize b.fmt false) (b.elems + 1) b.data).map (widen b.fmt)) }
  else b

/-- OR of two byte strings. -/
def orBytes (a b : List Byte) : List Byte :=
  (List.range (max a.length b.length)).map fun i => a.getD i 0 ||| b.getD i 0

/-- Do two bodies agree in what R234 names? -/
def RedBody.sameShape (a b : RedBody) : Bool :=
  decide (a.rop = b.rop ∧ a.fmt = b.fmt ∧ a.acc = b.acc ∧ a.fast = b.fast ∧ a.elems = b.elems ∧ a.set = b.set)

/-- AGE of the older of two packets, at a tick. -/
def olderAge (tick a b : Nat) : Nat := if subMod 4 tick a < subMod 4 tick b then b else a

/-- Add a contribution to a sum (R232 to R236). -/
def RedBody.fold (tick : Nat) (a b : RedBody) : RedBody :=
  let same := a.sameShape b
  let data := if !same then a.data
    else if a.rop = 3 then orBytes a.data b.data
    else
      let size := redSize a.fmt a.wide
      bytesOf size (((elemsOf size (a.elems + 1) a.data).zip (elemsOf size (a.elems + 1) b.data)).map fun (x, y) =>
        foldElem a.rop a.fmt a.wide x y)
  { a with
    status := a.status ||| b.status ||| (if same then 0 else 1) ||| (if b.poison then 2 else 0)
    contrib := (a.contrib + b.contrib) % 2 ^ 32
    pruned := (a.pruned + b.pruned) % 2 ^ 32
    age := olderAge tick a.age b.age
    data := data }

/-- A contribution as it enters a sum: POISON is kept as STATUS bit 1. -/
def RedBody.enter (b : RedBody) : RedBody :=
  { b.widened with status := b.status ||| (if b.poison then 2 else 0), poison := false }

/-- The sum of contributions in the order given; the first keeps the shape. -/
def foldAll (tick : Nat) : List RedBody → Option RedBody
  | [] => none
  | b :: bs => some ((bs.map RedBody.enter).foldl (RedBody.fold tick) b.enter)

/-- Contributions in the fixed order local, west, east, north, south (R233). -/
def byPort (parts : List (Nat × RedBody)) : List (Nat × RedBody) :=
  [4, 3, 1, 0, 2].flatMap fun p => parts.filter fun x : Nat × RedBody => x.1 == p

/-- Put a contribution after those whose tail flits arrived no later. -/
def insertArrival (x : Nat × RedBody) : List (Nat × RedBody) → List (Nat × RedBody)
  | [] => [x]
  | y :: ys => if y.2.arrived ≤ x.2.arrived then y :: insertArrival x ys else x :: y :: ys

/-- Contributions in the order in which their tail flits arrived, ties in port order (R233). -/
def byArrival (parts : List (Nat × RedBody)) : List (Nat × RedBody) :=
  (byPort parts).foldl (fun l x => insertArrival x l) []

/-- The sum an entry holds (R233, R234): contributions that differ in shape from the one that opened it only count. -/
def foldEntry (tick : Nat) (parts : List (Nat × RedBody)) : Option RedBody :=
  match parts with
  | [] => none
  | (_, o) :: _ =>
    let ordered := if o.fast then byArrival parts else byPort parts
    let good := ordered.filter fun x : Nat × RedBody => o.sameShape x.2
    let bad := ordered.filter fun x : Nat × RedBody => !o.sameShape x.2
    foldAll tick ((good ++ bad).map fun x => x.2)

/-- Data flits of a body. -/
def RedBody.dataFlits (b : RedBody) : Nat :=
  if b.rop = 3 then 2 else ceilDiv (redSize b.fmt b.wide * (b.elems + 1)) 64

/-- The packet of a sum. -/
def redPacket (h : Head) (key : RedKey) (b : RedBody) : List Flit :=
  mkPacket h (2 + b.dataFlits)
    (List.replicate 64 0 ++ setFlit b.set key.rtag key.chunk b.rop b.fmt b.acc b.fast b.wide b.elems b.status b.contrib b.pruned
      b.flag ++ b.data) []

/-- The oldest whole packet that meets a condition, and the NI without it. -/
def Ni.takeBy (n : Ni) (ok : Head → List Flit → Bool) : Option (Head × List Flit × Ni) :=
  match n.rx.find? fun p : RxPkt => p.whole && (match p.head? with | some h => ok h p.flits | none => false) with
  | some p => match p.head? with
    | some h => some (h, p.flits, ({ n with rx := n.rx.erase p } : Ni).landAll)
    | none => none
  | none => none

end Sys2Proof.Machine
end

