-- ==== Sys2Proof/Machine/CollCore.lean ====
section
/-! DEFINITION. The collective engine's shared operations: groups and trees, launches, twig steps, chunks, flags,
completion and shed (R315 to R343). -/

namespace Sys2Proof

/-- Members of a set in ascending member index (R316). -/
def McSet.members (m : McSet) : List (Nat × Nat) := m.rows.flatMap fun y => m.cols.map fun x => (x, y)

def McSet.index (m : McSet) (x y : Nat) : Nat := (m.colIx x).getD 0 + m.nx * (m.rowIx y).getD 0

end Sys2Proof

namespace Sys2Proof.Machine

/-! ### Counters (Table 18.10) -/

def clLAUNCH := 0
def clDONE := 1
def clSHED := 2
def clFIRED := 3
def clSTALE := 4
def twINBOXREF := 0
def twBADEFT := 1
def twBROKEN := 2
def twESCAPE := 3
def twSENDREF := 4

def Coll.count (c : Coll) (j : Nat) (n : Nat := 1) : Coll := { c with cnt := c.cnt.upd 0 j fun v => sat32 v n }
def Coll.twCount (c : Coll) (j : Nat) (n : Nat := 1) : Coll := { c with twCnt := c.twCnt.upd 0 j fun v => sat32 v n }
def Package.updColl (P : Package) (k : Nat) (f : Coll → Coll) : Package := P.updBole k fun b => b.updColl f
def Package.coll (P : Package) (k : Nat) : Coll := (P.bole k).coll

/-! ### Launch record (Table 13.6) -/

def CollOp.opc (o : CollOp) : Nat := fld o.lrec 0 1
def CollOp.fmt (o : CollOp) : Nat := bits (fld o.lrec 2 1) 2 0
def CollOp.rop (o : CollOp) : Nat := bits (fld o.lrec 2 1) 5 3
def CollOp.notify (o : CollOp) : Nat := fld o.lrec 3 1
def CollOp.n (o : CollOp) : Nat := fld o.lrec 4 4
def CollOp.src (o : CollOp) : Nat := fld o.lrec 8 4
def CollOp.dst (o : CollOp) : Nat := fld o.lrec 12 4
def CollOp.outcap (o : CollOp) : Nat := fld o.lrec 16 4
def CollOp.chunkB (o : CollOp) : Nat := 4096 * (if fld o.lrec 20 1 = 0 then 4 else fld o.lrec 20 1)
def CollOp.w (o : CollOp) : Nat := if fld o.lrec 21 1 = 0 then 2 else fld o.lrec 21 1
def CollOp.cpt (o : CollOp) : Nat := fld o.lrec 22 1
def CollOp.rtag (o : CollOp) : Nat := fld o.lrec 24 2
def CollOp.deadline (o : CollOp) : Nat := fld o.lrec 26 6
def CollOp.flagBase (o : CollOp) : Nat := fld o.lrec 32 4
def CollOp.scratch (o : CollOp) : Nat := fld o.lrec 36 4
def CollOp.record (o : CollOp) : Nat := fld o.lrec 40 4
/-- Bytes of an element of a VN2 operation. -/
def CollOp.es (o : CollOp) : Nat := redSize o.fmt false

/-! ### Groups, instances and trees (R315 to R317) -/

def Coll.group (c : Coll) (g : Nat) : Group := c.groups.get {} g
def Coll.updGroup (c : Coll) (g : Nat) (f : Group → Group) : Coll := { c with groups := c.groups.upd {} g f }
def Coll.opOf (c : Coll) (g : Nat) : Option CollOp := c.ops.find? fun o : CollOp => o.group == g
def Coll.updOp (c : Coll) (g : Nat) (f : CollOp → CollOp) : Coll :=
  { c with ops := c.ops.map fun o => if o.group = g then f o else o }

/-- The instance that a member belongs to, as a set. -/
def Group.inst (G : Group) (x y : Nat) : McSet :=
  if G.part = 1 then { G.set with y0 := y, ny := 1, lsy := 0 }
  else if G.part = 2 then { G.set with x0 := x, nx := 1, lsx := 0 }
  else G.set

/-- The root of the instance of a member. -/
def Group.root (G : Group) (x y : Nat) : Nat × Nat :=
  (if G.part = 2 then x else G.set.col G.rootI, if G.part = 1 then y else G.set.row G.rootJ)

/-- The routers of the path of R135 from one place to another, the start left out. -/
def Package.pathTo (P : Package) (e : Env) (k : Nat) (a b : Nat × Nat) : List (Nat × Nat) :=
  let g := P.glade k
  let (lx, ly) := (64 * e.w, 64 * e.h)
  let mx := dirOf (decide (g.w = lx)) lx a.1 b.1
  let my := dirOf (decide (g.h = ly)) ly a.2 b.2
  let step (len s : Nat) (minus : Bool) (i : Nat) : Nat := if minus then (s + len - i % len) % len else (s + i) % len
  ((List.range (ringDist lx mx a.1 b.1)).map fun i => (step lx a.1 mx (i + 1), a.2)) ++
    ((List.range (ringDist ly my a.2 b.2)).map fun i => (b.1, step ly a.2 my (i + 1)))

def Package.here (P : Package) (k : Nat) : Nat × Nat := (P.boleX k, P.boleY k)

def Package.parentOf (P : Package) (e : Env) (k : Nat) (G : Group) (m : Nat × Nat) : Option (Nat × Nat) :=
  let set := G.inst m.1 m.2
  (P.pathTo e k m (G.root m.1 m.2)).find? fun q => set.has q.1 q.2

/-- Children of bole k in ascending member index. -/
def Package.childrenOf (P : Package) (e : Env) (k : Nat) (G : Group) : List (Nat × Nat) :=
  let me := P.here k
  (G.inst me.1 me.2).members.filter fun m => decide (m ≠ me ∧ P.parentOf e k G m = some me)

/-! ### Efts (R307, R308, R313) -/

/-- An eft of bole k with its source and directions. -/
def Package.mkEft (P : Package) (e : Env) (k kind : Nat) (to_ : Nat × Nat) (group epoch word : Nat) (data : BitVec 64) : Eft :=
  let (mx, my) := P.dirs e.w e.h k to_.1 to_.2
  { kind := kind, inbox := 0, dstX := to_.1, dstY := to_.2, srcX := P.boleX k, srcY := P.boleY k, group := group, word := word,
    rop := 0, fmt := 0, dx := mx, dy := my, epoch := epoch, data := data }

/-- Are two places in one Stand? -/
def sameStand (a b : Nat × Nat) : Bool := decide (a.1 / 64 = b.1 / 64 ∧ a.2 / 64 = b.2 / 64)

/-- An eft of the engine or of a trigger waits at bole k to leave, with GROUP and EPOCH of its operation. A bole of no glade
sends none, for it has no tag but 0 (R142). -/
def Package.sendEft (P : Package) (k : Nat) (f : Eft) (key : Option (Nat × Nat)) : Package :=
  if P.tagOf k = 0 then P else P.updColl k fun c => { c with engQ := c.engQ ++ [(f, key)] }

/-- The TW_SEND queue with a new content: its events (R188). -/
def Coll.setSendQ (c : Coll) (q : List Eft) (now : Nat) : Coll :=
  { c with sendQ := q, sendMon := (c.sendMon.depth now (some 16) q.length).1 }

/-- The trigger output queue with a new content. -/
def Coll.setTrigQ (c : Coll) (q : List Trig) (now : Nat) : Coll :=
  { c with trigQ := q, trigMon := (c.trigMon.depth now (some 32) q.length).1 }

/-- An inbox with a new content: its off state and its samples (R302, Table 7.7). -/
def Inbox.setQ (b : Inbox) (q : List (Eft × Nat)) (now : Nat) : Inbox × Bool :=
  let (m, up) := b.mon.depth now (some 64) q.length
  ({ b with q := q, mon := m, off := if 60 ≤ q.length then true else if q.length ≤ 56 then false else b.off }, up)

/-- Push an eft into an inbox that has room (R314). -/
def Package.inboxPush (P : Package) (k i now : Nat) (f : Eft) : Package :=
  let b := (P.coll k).inbox.get {} i
  let (b1, up) := ({ b with mon := { b.mon with pushCyc := some now } } : Inbox).setQ (b.q ++ [(f, now)]) now
  (P.updColl k fun c => { c with inbox := c.inbox.set i b1 }).raiseWm k up

/-! ### Chunks (R319, R328) -/

/-- What the chunks of an operation at a member rest on. -/
structure ChunkCtx where
  o : CollOp
  set : McSet
  me : Nat
  root : Nat
  deriving DecidableEq, Repr

def Package.chunkCtx (P : Package) (k : Nat) (o : CollOp) : ChunkCtx :=
  let G := (P.coll k).group o.group
  let (x, y) := P.here k
  let r := G.root x y
  { o := o, set := G.inst x y, me := (G.inst x y).index x y, root := (G.inst x y).index r.1 r.2 }

def ChunkCtx.n (c : ChunkCtx) : Nat := c.set.nx * c.set.ny
/-- Elements and first element of member m's block (R319). -/
def ChunkCtx.blockLen (c : ChunkCtx) (m : Nat) : Nat := c.o.n / c.n + (if m < c.o.n % c.n then 1 else 0)
def ChunkCtx.blockAt (c : ChunkCtx) (m : Nat) : Nat := m * (c.o.n / c.n) + min m (c.o.n % c.n)
/-- Chunks of the output that a member gives or gets, in bytes. -/
def ChunkCtx.bytes (c : ChunkCtx) (m : Nat) : Nat :=
  if c.o.opc = 6 then c.o.es * c.blockLen m else c.o.es * c.o.n
def ChunkCtx.perMember (c : ChunkCtx) (m : Nat) : Nat := ceilDiv (c.bytes m) c.o.chunkB

/-- First chunk that this member roots in an ALLGATHER(V). -/
def ChunkCtx.firstOwn (c : ChunkCtx) : Nat :=
  if c.o.opc = 8 then (match c.o.scan with | some (_, co, _, _) => co | none => 0) else c.me * c.perMember c.me

/-- All chunk numbers of the operation. -/
def ChunkCtx.all (c : ChunkCtx) : List Nat :=
  match c.o.opc with
  | 3 | 4 | 5 => List.range (c.perMember 0)
  | 6 => (List.range (c.n * c.perMember 0)).filter fun i => decide (i / c.n < c.perMember (i % c.n))
  | 7 => List.range (c.n * c.perMember c.me)
  | 8 => match c.o.scan with | some (_, _, _, t) => List.range t | none => []
  | _ => []

/-- Chunks that this member starts. -/
def ChunkCtx.mine (c : ChunkCtx) : List Nat :=
  match c.o.opc with
  | 3 => if c.me = c.root then c.all else []
  | 4 | 5 | 6 => c.all
  | 7 | 8 => (List.range (c.perMember c.me)).map fun i => c.firstOwn + i
  | _ => []

/-- Root of a chunk of a reduction, by member index. -/
def ChunkCtx.rootOf (c : ChunkCtx) (i : Nat) : Nat := if c.o.opc = 5 ∨ c.o.opc = 6 then i % c.n else c.root

/-- Chunks whose flags this member gets. -/
def ChunkCtx.flags (c : ChunkCtx) : List Nat :=
  match c.o.opc with
  | 4 => if c.me = c.root then c.all else []
  | 6 => c.all.filter fun i => decide (c.rootOf i = c.me)
  | _ => c.all

/-- Place of a chunk in its member's output. -/
def ChunkCtx.local_ (c : ChunkCtx) (i : Nat) : Nat :=
  if c.o.opc = 6 then i / c.n else if c.o.opc = 7 ∨ c.o.opc = 8 then i - c.firstOwn else i

def ChunkCtx.size (c : ChunkCtx) (i : Nat) : Nat :=
  min c.o.chunkB (c.bytes (if c.o.opc = 6 then i % c.n else c.me) - c.local_ i * c.o.chunkB)

def ChunkCtx.srcOf (c : ChunkCtx) (i : Nat) : Nat :=
  c.o.src + c.local_ i * c.o.chunkB + (if c.o.opc = 6 then c.o.es * c.blockAt (i % c.n) else 0)

def ChunkCtx.dstOf (c : ChunkCtx) (i : Nat) : Nat :=
  c.o.dst + c.local_ i * c.o.chunkB +
    (if c.o.opc = 7 then c.me * c.o.n * c.o.es
     else if c.o.opc = 8 then (match c.o.scan with | some (off, _, _, _) => off | none => 0) else 0)

/-- Pieces of a full chunk, and of chunk i (R328). -/
def ChunkCtx.ppc (c : ChunkCtx) : Nat := ceilDiv c.o.chunkB (64 * c.o.es)
def ChunkCtx.pieces (c : ChunkCtx) (i : Nat) : Nat := ceilDiv (c.size i) (64 * c.o.es)

def CollOp.flagAt (o : CollOp) (i : Nat) : Nat := o.flagBase + 8 * i

/-- Chunk flag i holds the current epoch; and with STATUS 0 (R329, R342). -/
def Package.flagSet (P : Package) (k : Nat) (o : CollOp) (i : Nat) : Bool :=
  let (bs, _, _) := P.memRead k (o.flagAt i) 8
  P.memOk k (o.flagAt i) 8 && decide (fld bs 0 4 = o.launchNo)
def Package.flagGood (P : Package) (k : Nat) (o : CollOp) (i : Nat) : Bool :=
  P.flagSet k o i && decide (fld (P.memRead k (o.flagAt i) 8).1 4 1 = 0)

/-- The 8 bytes of a chunk flag (Table 13.7). -/
def CollOp.flagBytes (o : CollOp) (i status : Nat) : List Byte := leBytes 4 o.launchNo ++ leBytes 1 status ++ leBytes 3 i

/-- Group, epoch and lane that the operation's VN2 packets carry with them. -/
def Package.collKey (P : Package) (k : Nat) (o : CollOp) : Nat × Nat × Nat :=
  (o.group, o.epoch, ((P.coll k).group o.group).lane)

/-- Multicast one chunk to the instance. -/
def Package.mcChunk (P : Package) (e : Env) (k : Nat) (c : ChunkCtx) (i src status : Nat) : Package :=
  P.mcStart e k { set := c.set, loc := c.dstOf i, flag := c.o.flagAt i, src := src, granules := ceilDiv (c.size i) 64, record := 0 }
    (some (P.collKey k c.o)) status (c.size i % 64)

/-- The REDUCE packet of one piece of a chunk (R330). -/
def Package.piecePkt (P : Package) (e : Env) (k : Nat) (c : ChunkCtx) (i p : Nat) : List Flit × Package :=
  let G := (P.coll k).group c.o.group
  let bytes := min (64 * c.o.es) (c.size i - 64 * c.o.es * p)
  let (bs, bad, P1) := P.memRead k (c.srcOf i + 64 * c.o.es * p) bytes
  let r := c.set.members.getD (c.rootOf i) (0, 0)
  let flag := 0x01008000 + 8 * (Config.chunkCtr c.o.group i % 256)
  let pay := List.replicate 64 0 ++ setFlit c.set c.o.rtag (i * c.ppc + p) c.o.rop c.o.fmt G.acc G.fast false
    (bytes / c.o.es - 1) 0 1 0 flag ++ bs
  (mkPacket (P.mkHead e k .reduce r.1 r.2 (c.dstOf i + 64 * c.o.es * p) false 0) (2 + ceilDiv bytes 64) pay [false, false, bad], P1)

def Package.piecePkts (P : Package) (e : Env) (k : Nat) (c : ChunkCtx) (i : Nat) : Nat → List (List Flit) × Package
  | 0 => ([], P)
  | p + 1 =>
    let (fs, P1) := P.piecePkts e k c i p
    let (f, P2) := P1.piecePkt e k c i p
    (fs ++ [f], P2)

/-- Push the VN2 packets of a chunk (R329, R330). -/
def Package.pushChunk (P : Package) (e : Env) (k : Nat) (c : ChunkCtx) (i : Nat) : Package :=
  if c.o.opc = 4 ∨ c.o.opc = 5 ∨ c.o.opc = 6 then
    let (fss, P1) := P.piecePkts e k c i (c.pieces i)
    P1.pushVn2 e k (some (P.collKey k c.o)) fss
  else P.mcChunk e k c i (c.srcOf i) 0

/-! ### Completion (R340 to R343) -/

/-- The LOSS notice that R339 takes: loss tick and whether it is an abort. -/
def Coll.lossFor (c : Coll) (t0 : Nat) : Option (Nat × Bool) :=
  (c.loss.filter fun v => decide (t0 ≤ v % 2 ^ 48)).foldl (fun acc v =>
    let t := v % 2 ^ 48
    let ab := bitAt v 63
    match acc with
    | none => some (t, ab)
    | some (t', ab') => if t < t' ∨ (t = t' ∧ ab' ∧ !ab) then some (t, ab) else acc) none

/-- TIMEOUT as it acts: 0 acts as 50. -/
def Group.ticks (G : Group) : Nat := if G.timeout = 0 then 50 else G.timeout

/-- T0 of R337. -/
def Package.collT0 (P : Package) (k : Nat) (o : CollOp) : Nat := o.deadline - ((P.coll k).group o.group).ticks

def Package.collLoss (P : Package) (k : Nat) (o : CollOp) : Option (Nat × Bool) := (P.coll k).lossFor (P.collT0 k o)

/-- Does a VN2 packet belong to the operation? -/
def isCollPkt (mcs : List Nat) (rtag : Nat) (fs : List Flit) : Bool :=
  match fs with
  | { hdr := .head h, .. } :: sf :: _ =>
    (decide (h.op = .mcast) && mcs.contains (h.alive / 32 % 2048)) ||
      (decide (h.op = .reduce) && bits (fld sf.data 8 2) 11 0 == rtag)
  | _ => false

/-- Opkey of a trigger entry (Table 13.8). -/
def Trig.isOf (t : Trig) (g ep : Nat) : Bool := t.group == g && t.epoch == ep

/-- The entries of the injection queues that come from an operation's actions go, and the NI operations that they belong to
end without adding to a counter once no request of theirs is out (R341). -/
def Ni.dropKey (n : Ni) (key : Option (Nat × Nat)) : Ni :=
  let gone := (n.q.get [] 0).filter fun x : InjEntry => x.key == key
  { n with
    q := [0, 2, 3].foldl (fun q v => q.upd [] v fun l => l.filter fun x : InjEntry => x.key != key) n.q
    ops := (n.ops.map fun o : NiOp =>
      let lost := (gone.filter fun x : InjEntry => x.op == o.id).length
      if lost = 0 then o else { o with unsent := o.unsent - lost, chain := none }).filter fun o : NiOp =>
        !(o.unsent == 0 && o.awaiting == 0 && gone.any fun x : InjEntry => x.op == o.id) }

/-- What a shed or an abort takes away besides the operation (R341). -/
def Package.collRemove (P : Package) (e : Env) (k : Nat) (o : CollOp) : Package :=
  let now := e.now
  let n := (P.bole k).ni
  let isMine (m : McSrc) : Bool := match m.coll with | some (g, ep, _) => g == o.group && ep == o.epoch | none => false
  let mcs := (n.mc.filter isMine).map fun m : McSrc => m.opnum
  let vn2 := decide (3 ≤ o.opc)
  let own := some (o.group, o.epoch)
  let P1 := [0, 2, 3].foldl (fun P v => P.sampleQ k v now) (P.updNi k fun n => { n.dropKey own with
    mc := n.mc.filter fun m : McSrc => !isMine m
    roots := if vn2 then n.roots.filter fun t : RedRoot => t.key.rtag != o.rtag else n.roots
    q := (n.dropKey own).q.upd [] 2 fun q => q.filter fun x => match x.what with | .pkt fs => !(vn2 && isCollPkt mcs o.rtag fs) | _ => true })
  let P2 := P1.updColl k fun c => { c with
    trig := c.trig.map fun x => (x.1, if x.2.isOf o.group o.epoch then { x.2 with v := false } else x.2)
    fired := c.fired.filter fun t : Trig => !t.isOf o.group o.epoch
    engQ := c.engQ.filter fun x => x.2 != own
    laneReady := c.laneReady.map fun x => (x.1, x.2.filter fun p : LanePkt => !(p.group == o.group && p.epoch == o.epoch)) }
  (P2.updColl k fun c => c.setTrigQ (c.trigQ.filter fun t : Trig => !t.isOf o.group o.epoch) now).mcNext e k

/-- The completion record (Table 13.10). -/
def Package.collRecord (P : Package) (k : Nat) (o : CollOp) (code lossTick : Nat) : List Byte :=
  let good := ((P.chunkCtx k o).flags.filter fun i => P.flagGood k o i).length
  padTo 32 (leBytes 1 o.opc ++ leBytes 1 o.group ++ leBytes 1 o.epoch ++ leBytes 1 code ++ leBytes 4 good ++ leBytes 4 o.pruned ++
    leBytes 6 P.tick ++ leBytes 6 lossTick)

/-- DONE into the inbox named at launch. -/
def Package.collNotify (P : Package) (e : Env) (k : Nat) (o : CollOp) (code : Nat) : Package :=
  if o.notify = 0 ∨ 16 < o.notify then P
  else
    let f : Eft := { P.mkEft e k 10 (P.here k) o.group o.epoch 0
      (BitVec.ofNat 64 (o.opc % 16 + 16 * o.group + 2 ^ 10 * o.epoch + 2 ^ 16 * code)) with inbox := o.notify - 1 }
    if ((P.coll k).inbox.get {} (o.notify - 1)).q.length < 64 then P.inboxPush k (o.notify - 1) e.now f
    else P.updColl k fun c => { c with arrived := c.arrived ++ [f] }

/-- A group record from the 256 bits of a write (Table 18.13); the read-only fields stay. -/
def Group.write (G : Group) (v : Nat) : Group :=
  let set : McSet := { x0 := bits v 24 16, y0 := bits v 39 32, lsx := bits v 43 40, lsy := bits v 47 44,
                       nx := bits v 57 48, ny := bits v 72 64 }
  { G with v := bitAt v 0, part := bits v 2 1, exec := bitAt v 3, fast := bitAt v 4, acc := bitAt v 5, lane := bits v 10 8,
           set := set, rootI := bits v 89 80, rootJ := bits v 104 96, timeout := bits v 119 112 }

/-- The operation of a group ends at this member: a kept write of its record takes effect (R477). -/
def Coll.drop (c : Coll) (g : Nat) : Coll :=
  ({ c with ops := c.ops.filter fun o : CollOp => o.group != g } : Coll).updGroup g fun G =>
    match G.held with
    | some v => { G.write v.toNat with held := none }
    | none => G

/-- End of an operation: the record, then the DONE eft. -/
def Package.collEnd (P : Package) (e : Env) (k : Nat) (o : CollOp) (code lossTick : Nat) : Package :=
  let shed := decide (code = 1 ∨ code = 2 ∨ code = 3)
  let P1 := if shed ∨ code = 4 then P.collRemove e k o else P
  let P2 := (P1.recordWrite k o.record (P1.collRecord k o code lossTick)).collNotify e k o code
  P2.updColl k fun c => (c.drop o.group).count (if shed then clSHED else clDONE) (if code = 4 then 0 else 1)

/-- Does the member's part of a VN2 operation stand complete? -/
def Package.collDone (P : Package) (k : Nat) (o : CollOp) : Bool :=
  let c := P.chunkCtx k o
  let G := (P.coll k).group o.group
  let open_ := (P.bole k).ni.mc.any fun m : McSrc => match m.coll with | some (g, ep, _) => g == o.group && ep == o.epoch | none => false
  decide (3 ≤ o.opc ∧ (o.opc = 8 → o.scan.isSome)) && (c.flags.all fun i => P.flagSet k o i) &&
    (G.exec || decide (c.mine.length ≤ o.chunks)) && !open_

/-- Complete the operation of a group if its part stands complete. -/
def Package.collCheck (P : Package) (e : Env) (k g : Nat) : Package :=
  match (P.coll k).opOf g with
  | some o => if o.started && P.collDone k o then P.collEnd e k o 0 0 else P
  | none => P

/-- Write chunk flag i of an operation. -/
def Package.writeFlag (P : Package) (k : Nat) (o : CollOp) (i status : Nat) : Package :=
  P.recordWrite k (o.flagAt i) (o.flagBytes i status)

/-! ### Twig operations (R323, R324, R327) -/

def CollOp.upKind (o : CollOp) : Nat := if o.opc = 0 then 2 else if o.opc = 1 then 4 else 6
def CollOp.downKind (o : CollOp) : Nat := if o.opc = 0 then 3 else if o.opc = 1 then 5 else 7
/-- Does the operation have a twig part still to do? -/
def CollOp.onTwig (o : CollOp) : Bool := decide (o.opc ≤ 2) || (decide (o.opc = 8) && o.scan.isNone)

/-- Fold of two 8-byte values (R324). -/
def foldWord (rop fmt a b : Nat) : Nat :=
  let int (w x y : Nat) : Nat :=
    if rop = 0 then (x + y) % 2 ^ w else if rop = 1 then smaxN w x y else if rop = 2 then sminN w x y
    else if rop = 3 then x &&& y else x ||| y
  let flt (f : FFmt) (x y : Nat) : Nat := if rop = 0 then f.add x y else if rop = 1 then f.max2 x y else f.min2 x y
  let two (f : Nat → Nat → Nat) : Nat := f (a % 2 ^ 32) (b % 2 ^ 32) + 2 ^ 32 * f (a / 2 ^ 32) (b / 2 ^ 32)
  if fmt = 0 then two (int 32) else if fmt = 1 then int 64 a b else if fmt = 2 then two (flt fFp32) else flt fFp64 a b

/-- Sum of two (bytes, chunks) pairs. -/
def addPair (a b : Nat) : Nat := (a + b) % 2 ^ 32 + 2 ^ 32 * ((a / 2 ^ 32 + b / 2 ^ 32) % 2 ^ 32)

def CollOp.foldUp (o : CollOp) (a b : Nat) : Nat :=
  if o.opc = 1 then foldWord o.rop o.fmt a b else if o.opc = 0 then 0 else addPair a b

/-- The member's own value of a word. -/
def Package.ownWord (P : Package) (k : Nat) (o : CollOp) (w : Nat) : Nat :=
  if o.opc = 1 then leNat (P.memRead k (o.src + 8 * w) 8).1
  else if o.opc = 0 then 0
  else
    let b := o.n * (if o.opc = 8 then o.es else 1)
    b % 2 ^ 32 + 2 ^ 32 * ceilDiv b o.chunkB

/-- What a child has sent for a word. -/
def Coll.fromChild (c : Coll) (o : CollOp) (m : Nat × Nat) (w : Nat) : Option Nat :=
  (c.tally.find? fun t : Tally => t.group == o.group && t.epoch == o.epoch && t.kind == o.upKind && t.srcX == m.1 && t.srcY == m.2 &&
    t.word == w).map fun t => t.data.toNat

/-- ROP and FMT of a SCALAR's efts (Table 13.1). -/
def CollOp.mark (o : CollOp) (f : Eft) : Eft := if o.opc = 1 then { f with rop := o.rop, fmt := o.fmt } else f

/-- The members of the subtree of a member in the tree of bole k's group, by ascending index, cut into runs of indices that
follow each other: first and last of each. A subtree is one run unless a path to the root wraps around a ring. -/
def Package.subRuns (P : Package) (e : Env) (k : Nat) (G : Group) (m : Nat × Nat) : List (Nat × Nat) :=
  let set := G.inst m.1 m.2
  let ixs := (set.members.filter fun q => decide (q = m) || (P.pathTo e k q (G.root q.1 q.2)).contains m).map fun q =>
    set.index q.1 q.2
  ixs.foldl (fun rs i => match rs.getLast? with
    | some (lo, hi) => if hi + 1 = i then rs.dropLast ++ [(lo, i)] else rs ++ [(i, i)]
    | none => [(i, i)]) []

/-- The parts of a subtree that its member knows the sums of: its own, and each run of each child's subtree; first index and
sum. -/
def Package.scanParts (P : Package) (e : Env) (k : Nat) (o : CollOp) : List (Nat × Nat) :=
  let G := (P.coll k).group o.group
  ((P.chunkCtx k o).me, P.ownWord k o 0) :: (P.childrenOf e k G).flatMap fun m =>
    (P.subRuns e k G m).zipIdx.map fun x => (x.1.1, ((P.coll k).fromChild o m x.2).getD 0)

/-- The word of a SCAN_DOWN that carries the prefix of run w: 1 holds the totals. Past the first run it is the model's
(DESIGN CHOICE, log 40). -/
def scanWord (w : Nat) : Nat := if w = 0 then 0 else w + 1

/-- Prefix of the part that begins at index lo, from the prefix v of the run it lies in. -/
def prefixOf (parts : List (Nat × Nat)) (run : Nat × Nat) (v lo : Nat) : Nat :=
  (parts.filter fun x => decide (run.1 ≤ x.1 ∧ x.1 < lo)).foldl (fun acc x => addPair acc x.2) v

/-- Down efts of one word to every child: of a count exchange's prefixes, those of its own runs (R327). -/
def Package.sendDown (P : Package) (e : Env) (k : Nat) (o : CollOp) (w v : Nat) : Package :=
  let G := (P.coll k).group o.group
  let kids := P.childrenOf e k G
  let send (P : Package) (m : Nat × Nat) (w v : Nat) : Package :=
    P.sendEft k (o.mark (P.mkEft e k o.downKind m o.group o.epoch w (BitVec.ofNat 64 v))) (some (o.group, o.epoch))
  if o.downKind = 7 ∧ w ≠ 1 then
    let parts := P.scanParts e k o
    match (P.subRuns e k G (P.here k))[if w = 0 then 0 else w - 1]? with
    | none => P
    | some run => kids.foldl (fun P m => (P.subRuns e k G m).zipIdx.foldl (fun P x =>
        if run.1 ≤ x.1.1 ∧ x.1.1 ≤ run.2 then send P m (scanWord x.2) (prefixOf parts run v x.1.1) else P) P) P
  else kids.foldl (fun P m => send P m w v) P

/-- The member's own offsets, from the prefixes that it holds. -/
def Package.ownOffset (P : Package) (e : Env) (k : Nat) (o : CollOp) : Nat :=
  let me := (P.chunkCtx k o).me
  match (P.subRuns e k ((P.coll k).group o.group) (P.here k)).zipIdx.find? fun x => decide (x.1.1 ≤ me ∧ me ≤ x.1.2) with
  | some x => prefixOf (P.scanParts e k o) x.1 (o.down.get 0 (scanWord x.2)).toNat me
  | none => 0

/-- A downward word is at hand: keep it and forward it. -/
def Package.takeDown (P : Package) (e : Env) (k : Nat) (o : CollOp) (w v : Nat) : Package :=
  (P.sendDown e k o w v).updColl k fun c => c.updOp o.group fun o => { o with down := o.down.set w (BitVec.ofNat 64 v) }

/-- Words that go up from a member, and those that come down to it. -/
def Package.upWords (P : Package) (e : Env) (k : Nat) (o : CollOp) : List Nat :=
  if o.opc = 1 then List.range (o.n / 8)
  else if o.opc = 0 then [0]
  else List.range (P.subRuns e k ((P.coll k).group o.group) (P.here k)).length
def Package.downWords (P : Package) (e : Env) (k : Nat) (o : CollOp) : List Nat :=
  if o.opc = 0 ∨ o.opc = 1 then P.upWords e k o else 1 :: (P.upWords e k o).map scanWord

/-- The value of one word upward, once the launch and every child's efts of it are held (R323, R324). -/
def Package.upValue (P : Package) (e : Env) (k : Nat) (o : CollOp) (w : Nat) : Option Nat :=
  let G := (P.coll k).group o.group
  let kids := P.childrenOf e k G
  let c := P.coll k
  if o.upKind = 6 then
    let all := kids.all fun m => (List.range (P.subRuns e k G m).length).all fun j => (c.fromChild o m j).isSome
    match all, (P.subRuns e k G (P.here k))[w]? with
    | true, some run => some (((P.scanParts e k o).filter fun x => decide (run.1 ≤ x.1 ∧ x.1 ≤ run.2)).foldl
        (fun acc x => addPair acc x.2) 0)
    | _, _ => none
  else
    let got := kids.filterMap fun m => c.fromChild o m w
    if got.length = kids.length then some (got.foldl o.foldUp (P.ownWord k o w)) else none

/-- One word upward; at the root, downward. -/
def Package.sendUp (P : Package) (e : Env) (k g w : Nat) : Package :=
  match (P.coll k).opOf g with
  | none => P
  | some o =>
    if !o.started || !o.onTwig || !(P.upWords e k o).contains w || o.upSent.contains w then P
    else match P.upValue e k o w with
      | none => P
      | some v =>
        let P1 := P.updColl k fun c => c.updOp g fun o => { o with upSent := o.upSent ++ [w] }
        let (x, y) := P.here k
        match P.parentOf e k ((P.coll k).group g) (x, y) with
        | some m => P1.sendEft k (o.mark (P1.mkEft e k o.upKind m g o.epoch w (BitVec.ofNat 64 v))) (some (g, o.epoch))
        | none => if o.upKind = 6 then (P1.takeDown e k o 0 0).takeDown e k o 1 v else P1.takeDown e k o w v

/-- Ends a twig operation whose downward words are all held (R323, R327). -/
def Package.twigEnd (P : Package) (e : Env) (k g : Nat) : Package :=
  match (P.coll k).opOf g with
  | none => P
  | some o =>
    let held (w : Nat) : Bool := (o.down.any fun x => x.1 == w)
    let val (w : Nat) : Nat := (o.down.get 0 w).toNat
    if !o.started || !o.onTwig || !((P.downWords e k o).all held) then P
    else if o.opc = 0 then P.collEnd e k o 0 0
    else if o.opc = 1 then (P.memWrite k o.dst ((List.range (o.n / 8)).flatMap fun w => leBytes 8 (val w))).collEnd e k o 0 0
    else
      let own := P.ownOffset e k o
      let (off, co, tot, ch) := (own % 2 ^ 32, own / 2 ^ 32, val 1 % 2 ^ 32, val 1 / 2 ^ 32)
      if o.opc = 2 then
        (P.memWrite k o.dst (leBytes 4 off ++ leBytes 4 co ++ leBytes 4 tot ++ leBytes 4 ch)).collEnd e k o 0 0
      else if o.outcap < tot then P.collEnd e k o 5 0
      else (P.updColl k fun c => c.updOp g fun o => { o with scan := some (off, co, tot, ch) }).collCheck e k g

/-- Everything the engine can do for a group now. -/
def Package.collStep (P : Package) (e : Env) (k g : Nat) : Package :=
  ((List.range 8).foldl (fun P w => P.sendUp e k g w) P).twigEnd e k g

/-! ### Launch (R320 to R322) -/

/-- Addresses that a launch may name: those of n bytes, and a field that its OP does not use too (R69, R321). -/
def Package.collAddr (P : Package) (k a n : Nat) : Bool := P.memOk k a (max 1 n)

def Package.recordOk (P : Package) (k a n : Nat) : Bool := (ctrWindow a).isSome || P.memOk k a n

/-- Is the launch record good (R321, R324, Table 13.6)? -/
def Package.launchGood (P : Package) (k : Nat) (o : CollOp) : Bool :=
  let G := (P.coll k).group o.group
  let (x, y) := P.here k
  let c := P.chunkCtx k o
  let fields := decide (o.opc ≤ 8 ∧ fld o.lrec 1 1 ≤ 63 ∧ o.notify ≤ 16 ∧ fld o.lrec 20 1 ≤ 15 ∧ fld o.lrec 21 1 ≤ 8 ∧ o.rtag ≤ 0xFFE ∧
    fld o.lrec 2 1 < 64 ∧ fld o.lrec 23 1 = 0 ∧ fld o.lrec 44 20 = 0)
  let fmtOk := if o.opc = 1 then decide (o.fmt ≤ 3 ∧ o.rop ≤ 4 ∧ (2 ≤ o.fmt → o.rop ≤ 2) ∧ 8 ≤ o.n ∧ o.n ≤ 64 ∧ o.n % 8 = 0)
    else if 3 ≤ o.opc then decide (o.fmt ≤ 4 ∧ o.rop ≤ 2) else true
  let nFlags := if o.opc = 8 then 1 else if 3 ≤ o.opc then c.all.length else 0
  let src := if o.opc = 1 then o.n else if 3 ≤ o.opc then (if o.opc = 3 ∧ c.me ≠ c.root then 0 else o.n * o.es) else 0
  let dst := if o.opc = 1 then o.n else if o.opc = 2 then 16 else if o.opc = 7 then c.n * o.n * o.es
    else if o.opc = 8 then o.outcap else if o.opc = 6 then o.es * c.blockLen c.me
    else if o.opc = 4 ∧ c.me ≠ c.root then 0 else if 3 ≤ o.opc then o.n * o.es else 0
  let scratch := if (o.opc = 4 ∨ o.opc = 5 ∨ o.opc = 6) then min (c.all.length * c.ppc) (o.w * c.ppc) * 256 else 0
  G.v && decide (G.part ≤ 2) && G.set.inGlade (P.glade k) && G.set.has x y && !P.tk.lost && fields && fmtOk &&
    P.collAddr k o.src src && P.collAddr k o.dst dst && P.collAddr k o.flagBase (8 * nFlags) &&
    P.collAddr k o.scratch scratch && P.recordOk k o.record 32

/-- The running NI-executor operation that holds a lane. -/
def Coll.laneHeld (c : Coll) (lane : Nat) : Bool :=
  c.ops.any fun o : CollOp => o.started && !(c.group o.group).exec && decide ((c.group o.group).lane = lane)

def Coll.laneWaiting (c : Coll) (lane : Nat) : Nat :=
  (c.ops.filter fun o : CollOp => !o.started && decide ((c.group o.group).lane = lane)).length

/-- A launch that ends at once with BAD_LAUNCH: its record and its DONE eft. -/
def Package.badLaunch (P : Package) (e : Env) (k : Nat) (o : CollOp) : Package :=
  (P.recordWrite k o.record (padTo 32 (leBytes 1 o.opc ++ leBytes 1 (fld o.lrec 1 1) ++
    leBytes 1 ((P.coll k).group o.group).epoch ++ leBytes 1 6 ++ leBytes 8 0 ++ leBytes 6 P.tick))).collNotify e k o 6

/-- A launch of a record (R320 to R322). exec: it comes from the member's own program. -/
def Package.launch (P : Package) (e : Env) (k : Nat) (lrec : List Byte) (exec : Bool) : Package :=
  let g := fld lrec 1 1 % 64
  let c := P.coll k
  let G := c.group g
  let o0 : CollOp := { group := g, lrec := padTo 64 lrec, epoch := G.epoch, launchNo := G.launches, started := false }
  let wait := !exec && (c.laneHeld G.lane || decide (c.laneWaiting G.lane ≠ 0))
  if (c.opOf g).isSome || decide (G.exec ≠ exec) || !P.launchGood k o0 || (wait && decide (4 ≤ c.laneWaiting G.lane)) then
    P.badLaunch e k o0
  else
    let ep := (G.epoch + 1) % 64
    let ln := (G.launches + 1) % 2 ^ 32
    let P1 := P.updColl k fun c =>
      let c1 := (c.updGroup g fun G => { G with epoch := ep, launches := ln }).count clLAUNCH
      { c1 with ops := c1.ops ++ [{ o0 with epoch := ep, launchNo := ln, started := !wait }]
                tally := c1.tally.filter fun t : Tally => t.group != g || t.epoch == ep || t.epoch == (ep + 1) % 64 }
    if wait then P1 else (P1.collStep e k g).collCheck e k g

end Sys2Proof.Machine
end

