-- ==== Sys2Proof/Machine/Coll.lean ====
section
/-! DEFINITION. Lanes, launches, chunks, sheds, counters and triggers: LANE_PUSH, CL_LAUNCH_WRITE to CL_GROUP_WRITE
(R299, R320 to R322, R329, R334, R335, R339, R465, R476, R477). -/

namespace Sys2Proof.Machine

/-! ### Lanes (R299) -/

def Coll.lane (c : Coll) (l : Nat) : List LanePkt := c.laneReady.get [] l

/-- The lane served next, with the lanes' deficits after the visits: 0 for a lane with nothing ready, a quantum more for
the lane visited. -/
def Coll.visit (c : Coll) (weights : Nat) : Nat → Coll
  | 0 => c
  | n + 1 =>
    let l := (c.rrLane + 1) % 8
    match c.lane l with
    | [] => ({ c with rrLane := l, deficit := c.deficit.set l 0 } : Coll).visit weights n
    | _ => { c with rrLane := l, deficit := c.deficit.upd 0 l fun d => d + 32 * bits weights (4 * l + 3) (4 * l) }

def Coll.canSend (c : Coll) : Bool :=
  match c.lane c.rrLane with
  | p :: _ => decide (p.flits.length ≤ c.deficit.get 0 c.rrLane)
  | [] => false

def Package.lanePush (P : Package) (e : Env) (k : Nat) : Package :=
  if 32 ≤ ((P.bole k).ni.q.get [] 2).length then P
  else
    let c0 := P.coll k
    let c := if c0.canSend then c0 else c0.visit (P.bole k).shaper.laneW 8
    match c.lane c.rrLane with
    | [] => P.updColl k fun _ => c
    | p :: rest =>
      let d := if rest.isEmpty then 0 else c.deficit.get 0 c.rrLane - p.flits.length
      (P.updColl k fun _ => { c with laneReady := c.laneReady.set c.rrLane rest, deficit := c.deficit.set c.rrLane d }).pushQ e k 2
        { what := .pkt p.flits, key := some (p.group, p.epoch) }

def execLanePush (p : PkgId) (k : BoleIx) (s : State) : Host.Outcome State Fault Refusal :=
  .next (s.onBole p k fun e P => P.lanePush e k)

/-! ### Launches, chunks, sheds -/

def execClLaunchWrite (p : PkgId) (k : BoleIx) (lrec : List Byte) (s : State) : Host.Outcome State Fault Refusal :=
  .next (s.onProg p k fun e P => P.launch e k lrec true)

def Package.dequeue (P : Package) (e : Env) (k lane : Nat) : Package :=
  let c := P.coll k
  if c.laneHeld lane then P
  else match c.ops.find? fun o : CollOp => !o.started && decide ((c.group o.group).lane = lane) with
    | none => P
    | some o =>
      ((P.updColl k fun c => c.updOp o.group fun o => { o with started := true }).collStep e k o.group).collCheck e k o.group

def execLaunchDequeue (p : PkgId) (k : BoleIx) (lane : Fin 8) (s : State) : Host.Outcome State Fault Refusal :=
  .next (s.onBole p k fun e P => P.dequeue e k lane)

/-- R329: flag c - W at this member holds the current epoch, and CPT leaves room. A member that gets no data of chunk c - W
has that flag only if something else writes it there (log 40). -/
def Package.mayStart (P : Package) (k : Nat) (c : ChunkCtx) (i : Nat) : Bool :=
  (decide (i < c.o.w) || P.flagSet k c.o (i - c.o.w)) &&
    decide (c.o.cpt = 0 ∨ c.o.chunksTick < c.o.cpt)

def Package.chunkStart (P : Package) (e : Env) (k g : Nat) : Package :=
  match (P.coll k).opOf g with
  | none => P
  | some o =>
    let c := P.chunkCtx k o
    if !o.started || ((P.coll k).group g).exec || decide (o.opc < 3) || (decide (o.opc = 8) && o.scan.isNone) then P
    else match c.mine[o.chunks]? with
      | none => P
      | some i =>
        if P.mayStart k c i then
          ((P.updColl k fun q => q.updOp g fun o => { o with chunks := o.chunks + 1, chunksTick := o.chunksTick + 1 }).pushChunk e k c i).collCheck
            e k g
        else P

def execChunkStart (p : PkgId) (k : BoleIx) (group : Fin 64) (s : State) : Host.Outcome State Fault Refusal :=
  .next (s.onBole p k fun e P => P.chunkStart e k group)

/-- S of R339, and the code that a shed at it has. -/
def shedTick (d : Nat) (loss : Option (Nat × Bool)) : Nat := match loss with | some (r, _) => min d (r + 8) | none => d
def shedCode (d : Nat) (loss : Option (Nat × Bool)) : Nat :=
  match loss with
  | some (r, ab) => if r + 8 ≤ shedTick d loss then (if ab then 3 else 2) else 1
  | none => 1

def Package.collShed (P : Package) (e : Env) (k g : Nat) : Package :=
  match (P.coll k).opOf g with
  | none => P
  | some o =>
    let loss := P.collLoss k o
    if shedTick o.deadline loss ≤ P.tick then
      P.collEnd e k o (shedCode o.deadline loss) (match loss with | some (r, _) => r | none => 0)
    else P

def execCollShed (p : PkgId) (k : BoleIx) (group : Fin 64) (s : State) : Host.Outcome State Fault Refusal :=
  .next (s.onBole p k fun e P => P.collShed e k group)

/-! ### Counters and triggers (R334, R335) -/

/-- Actions of entries that fired in an earlier cycle enter the output queue. -/
def Coll.queueFired (c : Coll) (now : Nat) : Coll :=
  if c.firedAt < now then ({ c with fired := [] } : Coll).setTrigQ (c.trigQ ++ c.fired) now else c

/-- Is there a slot of the output queue for one more? -/
def Coll.fireRoom (c : Coll) : Bool := decide (c.trigQ.length + c.fired.length < 32)

/-- Entries that fire, in ascending index, while slots are free. -/
def Coll.fireSome (c : Coll) (now : Nat) : List Nat → Coll
  | [] => c
  | t :: ts =>
    let x := c.trig.get {} t
    if x.v && x.since != some now && decide (x.thresh ≤ c.ctr.get 0 x.ctr) && c.fireRoom then
      (({ c with trig := c.trig.set t { x with v := false }, fired := c.fired ++ [x], firedAt := now } : Coll).count clFIRED).fireSome now ts
    else c.fireSome now ts

/-- Chunks of ALLREDUCEs that this member roots and whose counter has reached their piece count: the engine's own triggered
operations, each with its group and chunk (R330). They fire after the entries (DESIGN CHOICE, log 40). -/
def Package.readyChunks (P : Package) (k : Nat) : List (CollOp × Nat) :=
  ((P.coll k).ops.filter fun o : CollOp => o.started && decide (o.opc = 5) && !((P.coll k).group o.group).exec).flatMap fun o =>
    let c := P.chunkCtx k o
    (o.landed.filter fun x => !o.fired.contains x.1 &&
      decide (x.2.1 = c.pieces x.1 ∧ x.2.2.2 ≤ (P.coll k).ctr.get 0 (Config.chunkCtr o.group x.1 % 256))).map fun x => (o, x.1)

def Coll.fireChunk (c : Coll) (now : Nat) (o : CollOp) (i : Nat) : Coll :=
  if c.fireRoom then
    (({ c with
        fired := c.fired ++ [{ act := 16, group := o.group, epoch := o.epoch, lane := (c.group o.group).lane, desc := i }]
        firedAt := now } : Coll).updOp o.group fun o => { o with fired := o.fired ++ [i] }).count clFIRED
  else c

def Package.triggerFire (P : Package) (e : Env) (k : Nat) : Package :=
  let P1 := P.updColl k fun c => (c.queueFired e.now).fireSome e.now (c.trig.map fun x => x.1)
  (P1.readyChunks k).foldl (fun P x => P.updColl k fun c => c.fireChunk e.now x.1 x.2) P1

/-- Has an entry been written in this cycle, armed with its threshold met: it fires in the next one (R476)? -/
def Coll.armedNow (c : Coll) (now : Nat) : Bool :=
  c.trig.any fun x => x.2.v && x.2.since == some now && decide (x.2.thresh ≤ c.ctr.get 0 x.2.ctr)

/-- One firing in a cycle: what fires enters the output queue in the next one (R335). -/
def execTriggerFire (p : PkgId) (k : BoleIx) (s : State) : Host.Outcome State Fault Refusal :=
  .next ((s.inCycle ((s.pkg p).live && ((s.pkg p).coll k).armedNow s.now)).onBole p k fun e P => P.triggerFire e k)

/-- A request that an action sends: refused as any other, then pushed when an entry is free. -/
def Package.actPush (P : Package) (e : Env) (k : Nat) (q : Push) (chain : Option Nat) (key : Option (Nat × Nat)) : Package :=
  match P.pushFault k q q.granules with
  | some (c, a) => P.fault k c a
  | none => P.startOp e k [(q, q.granules)] chain key

/-- The counter that an action's descriptor names is added to when the action completes: here for one that completes as it is
carried out; a request and a multicast add to it with their last answer (R335). -/
def TrigDesc.later (act : Nat) : Bool := decide (act = 0 ∨ act = 1 ∨ act = 3)

/-- The REDUCE of an action: a source NI makes none but of one to four data flits of a format there is (R165, R216, R235). -/
def Package.actReduce (P : Package) (e : Env) (k : Nat) (key : Option (Nat × Nat × Nat)) (q : Push) : Package :=
  let n := ceilDiv q.body.length 64 + 1
  if !(setOf q.body).inGlade (P.glade k) || !(P.glade k).holds q.dstX q.dstY then P.fault k fcOutOfGlade q.loc
  else if 4 < bits (fld q.body 13 1) 4 2 ∨ n < 3 ∨ 6 < n then P
  else P.pushVn2 e k key [mkPacket (P.mkHead e k .reduce q.dstX q.dstY q.loc false 0) n (List.replicate 64 0 ++ q.body) []]

/-- Multicast a chunk of an ALLREDUCE from the root's DST (R330). -/
def Package.actChunk (P : Package) (e : Env) (k : Nat) (t : Trig) : Package :=
  match (P.coll k).opOf t.group with
  | some o =>
    if o.epoch = t.epoch then
      let c := P.chunkCtx k o
      P.mcChunk e k c t.desc (c.dstOf t.desc) (o.landed.get (0, 0, 0) t.desc).2.1
    else P
  | none => P

/-- Carry out an action (Table 13.8). A bole of no glade sends nothing, for it has no tag but 0 (R142). -/
def Package.runAct (P : Package) (e : Env) (k : Nat) (t : Trig) (d : TrigDesc) : Package :=
  let key := some (t.group, t.epoch, t.lane)
  let own := some (t.group, t.epoch)
  let q := d.push
  let tagged := decide (P.tagOf k ≠ 0)
  if t.act = 0 then
    -- a WRITE of no granule, or of more than a packet holds, is no packet that an NI makes (R165)
    (if tagged && decide (1 ≤ q.len ∧ q.granules ≤ 32) then P.actPush e k { q with op := .write } d.chain own else P)
  else if t.act = 1 then
    (if !(d.mc.set.inGlade (P.glade k)) then P.fault k fcOutOfGlade d.mc.loc
     else if leafTop < d.mc.src + 64 * d.mc.granules then P.fault k fcAddress d.mc.src
     else if tagged && decide (1 ≤ d.mc.granules ∧ d.mc.granules ≤ 960) then P.mcStart e k d.mc key 0 0 d.chain
     else P)
  else if t.act = 2 then (if tagged then P.actReduce e k key q else P)
  else if t.act = 3 then (if tagged then P.actPush e k { q with op := .signal } d.chain own else P)
  else if t.act = 4 then P.sendEft k { P.mkEft e k 1 (d.eft.dstX, d.eft.dstY) 0 0 0 d.eft.data with inbox := d.eft.inbox } own
  else if t.act = 5 then P.recordWrite k d.addr (leBytes 8 d.value.toNat)
  else if t.act = 6 then P.updColl k fun c => c.addCtr (d.ctr % 256) (d.value.toNat % 2 ^ 32)
  else if t.act = 7 then P.sendEft k (P.mkEft e k d.eft.kind (d.eft.dstX, d.eft.dstY) t.group t.epoch d.eft.word d.eft.data) own
  else P

def Package.triggerRun (P : Package) (e : Env) (k : Nat) : Package :=
  let c := (P.coll k).queueFired e.now
  match c.trigQ with
  | [] => P.updColl k fun _ => c
  | t :: rest =>
    let P1 := P.updColl k fun _ => c.setTrigQ rest e.now
    if t.act = 16 then P1.actChunk e k t
    else
      let (bs, _, P2) := P1.leafRead k t.desc 64
      let d := Config.trigDesc t.act bs
      let P3 := P2.runAct e k t d
      match if TrigDesc.later t.act then none else d.chain with
      | some j => P3.updColl k fun c => c.addCtr (j % 256) 1
      | none => P3

/-- An action that has fired in this cycle can run in the next one. -/
def execTriggerActionRun (p : PkgId) (k : BoleIx) (s : State) : Host.Outcome State Fault Refusal :=
  let c := (s.pkg p).coll k
  .next ((s.inCycle ((s.pkg p).live && !c.fired.isEmpty && decide (s.now ≤ c.firedAt))).onBole p k fun e P => P.triggerRun e k)

def execClCtrAdd (p : PkgId) (k : BoleIx) (ctr : Fin 256) (v : BitVec 32) (s : State) : Host.Outcome State Fault Refusal :=
  .next (s.onProg p k fun _ P => P.updColl k fun c => c.addCtr ctr v.toNat)

def execClCtrReset (p : PkgId) (k : BoleIx) (ctr : Fin 256) (s : State) : Host.Outcome State Fault Refusal :=
  .next (s.onBole p k fun _ P => P.updColl k fun c => { c with ctr := c.ctr.set ctr 0 })

/-- A trigger entry from its 128 bits (Table 18.12). -/
def Trig.ofValue (v : Nat) : Trig :=
  { v := bitAt v 0, ctr := bits v 15 8, act := bits v 19 16, lane := bits v 22 20, group := bits v 37 32, epoch := bits v 43 38,
    thresh := bits v 95 64, desc := 64 * bits v 118 102 }

def Coll.writeTrig (c : Coll) (t v now : Nat) : Coll := { c with trig := c.trig.set t { Trig.ofValue v with since := some now } }

def execClTrigWrite (p : PkgId) (k : BoleIx) (t : Fin 512) (v : BitVec 128) (s : State) : Host.Outcome State Fault Refusal :=
  .next (s.onBole p k fun e P => P.updColl k fun c => c.writeTrig t v.toNat e.now)

/-- Write a group record, or hold the write while its operation runs (R477). -/
def Coll.writeGroup (c : Coll) (g v : Nat) : Coll :=
  c.updGroup g fun G => if (c.opOf g).isSome then { G with held := some (BitVec.ofNat 256 v) } else G.write v

def execClGroupWrite (p : PkgId) (k : BoleIx) (g : Fin 64) (v : BitVec 256) (s : State) : Host.Outcome State Fault Refusal :=
  .next (s.onBole p k fun _ P => P.updColl k fun c => c.writeGroup g v.toNat)

end Sys2Proof.Machine
end

