-- ==== Sys2Proof/Machine/ArbCmds.lean ====
section
/-! DEFINITION. Rows of the age arbiters: ARB_REQUEST to AR_CLASS_WRITE, with the egress adapter's part in them
(R84 to R103, R143, R292, R297, R354, R494). -/

namespace Sys2Proof.Machine

/-! ### Admission at the sites (R89) -/

/-- A virtual network is under HOLD (R363). -/
def Link.held (L : Link) (vn : Nat) : Bool := (L.hold.get {} vn).until_.isSome

/-- Is an entry admitted by its site, and its requester in no condition of a mask (R89)? -/
def Package.arbAdmits (P : Package) (i : Nat) (x : ArbEntry) : Bool :=
  if i < 32 then !P.siteMasked i x.req
  else if i = 32 then !P.siteMasked i x.req && !P.unfundedEntry x.req (x.len - x.done)
  else
    let L := P.link (i - 33)
    !P.siteMasked i x.req && !L.partnerOff.get false x.req && !L.held (x.req / 2)

/-! ### Egress presentation (R291, R292, R297, R494) -/

def Colour.cls (vn : Nat) (c : Colour) : Nat :=
  if vn = 0 then (if c = .green then 1 else 0)
  else if vn = 1 then 1
  else if vn = 2 then (if c = .green then 2 else 1)
  else 3

/-- Present a request of a virtual channel: the first of a packet is coloured and debited; a red head is not presented. -/
def Link.present (L : Link) (now : Nat) (r : ArbReq) : Option Link :=
  let ch := r.req
  if L.egOpen.get false ch then some L
  else match L.nextSide ch with
    | none => none
    | some side =>
      let col := L.shaper.colour (ch / 2) r.pkt now
      if col = .red then none
      else some { L with egAge := L.egAge.set ch (((L.eg.get [] (8 * side + ch)).head?).elim 0 Flit.age),
                         egOpen := L.egOpen.set ch true, egSel := L.egSel.set ch side, egLast := L.egLast.set ch side,
                         egAdmitted := L.egAdmitted.set ch true, egCls := L.egCls.set ch (Colour.cls (ch / 2) col),
                         shaper := L.shaper.debit (ch / 2) r.pkt now }

/-- The requests of this cycle at an egress port that are presented, with the adapter's books after them. One of a masked
requester is dropped (R99). -/
def Package.presentAll (P : Package) (e : Env) (i : Nat) : List ArbReq → Package × List ArbReq
  | [] => (P, [])
  | r :: rs =>
    if P.siteMasked i r.req ∨ (Arb.presentable 8 (P.arb i) [r]).isEmpty then P.presentAll e i rs
    else match (P.link (i - 33)).present (P.ckm e.now) r with
      | some L =>
        let (P1, rs') := (P.updLink (i - 33) fun _ => L).presentAll e i rs
        (P1, r :: rs')
      | none => P.presentAll e i rs

/-- Class of a requester's next entry (R85, R297). -/
def Package.arbClass (P : Package) (i r : Nat) : Nat :=
  if 33 ≤ i ∧ (P.link (i - 33)).shaper.en then (P.link (i - 33)).egCls.get 0 r else (P.arb i).classOf i r

/-! ### One arbiter cycle (R90), with the egress beat (R143, R354) -/

/-- The next flit of the packet open on a channel. -/
def Link.beatFlit (L : Link) (ch : Nat) : Option Flit :=
  if L.egOpen.get false ch then (L.eg.get [] (8 * L.egSel.get 0 ch + ch)).head? else none

def Link.closeCh (L : Link) (ch : Nat) : Link :=
  { L with egOpen := L.egOpen.set ch false, egAdmitted := L.egAdmitted.set ch false, egDrop := L.egDrop.set ch false }

/-- A beat: ownership is checked at the head (R143); the flit enters the frame being assembled, or is discarded. -/
def Link.beat (L : Link) (owner ch now : Nat) (f : Flit) : Link :=
  let side := L.egSel.get 0 ch
  let L1 : Link := match f.hdr with
    | .head h =>
      let L' : Link := { L with vcMon := L.vcMon.upd {} ch fun m => m.left (now - (L.headAt.get 0 ch - 1)), headAt := L.headAt.set ch 0 }
      if h.tag = owner ∧ owner ≠ 0 ∨ f.tickSync then L'
      else ({ L' with egDrop := L'.egDrop.set ch true } : Link).escaped h.tag h.srcX h.srcY
    | .follow _ => L
  let L2 : Link := if L1.egDrop.get false ch then L1
    else L1.asmPut (linkFlit f) (if f.tickSync then .tickSync else .dyn)
  let L3 := if f.isLast then L2.closeCh ch else L2
  L3.egPop side ch now

/-- Why the owner of the coming beat of an egress port withdraws it: its flit is not there, its channel has gone off, or it
is held. -/
def Package.beatFails (P : Package) (l ch : Nat) : Bool :=
  let L := P.link l
  L.partnerOff.get false ch || L.held (ch / 2) ||
    (match L.beatFlit ch with | some f => expired P.tick f.age | none => true)

/-- Does the coming beat of instance i fail? An overflow stream's does with nothing left to read. -/
def Package.lapses (P : Package) (i ch : Nat) : Bool :=
  if 33 ≤ i then P.beatFails (i - 33) ch
  else decide (i = 32 ∧ 64 ≤ ch ∧ ch ≤ 80) && (P.ovfHead (ch - 64)).isNone

/-- The instance before step 1: a beat that fails is withdrawn (R98). -/
def Package.arbBefore (P : Package) (i : Nat) : Arb :=
  let a := P.arb i
  match a.nextBeat with
  | some ch => if P.lapses i ch then { a with withdraw := true } else a
  | none => a

/-- Is the cycle an arbiter cycle: at the Root DMA port, has the transmitter credit; at an egress port, has the frame room
for a flit, and the cycle none that the schedule reserves (R91, R190, R354)? -/
def Package.arbRuns (P : Package) (e : Env) (i : Nat) : Bool :=
  if i < 32 then true
  else if i = 32 then P.creditFor
  else !P.linkReserved e (i - 33) && (decide ((P.link (i - 33)).train ≠ .active) || decide ((P.link (i - 33)).asm.length < 1016))

/-- A read with its issued part taken off, at its place in the list. -/
def dropFirstOvf (o : OvfPend) (rest : List OvfPend) : List OvfPend → List OvfPend
  | [] => []
  | x :: xs => if x = o then rest ++ xs else x :: dropFirstOvf o rest xs

/-- The next PCIe request of a function's oldest overflow read (R72, R75). -/
def Package.ovfTlp (P : Package) (f : Nat) : Package :=
  match P.ovfHead f with
  | none => P
  | some o =>
    let n := firstLen (P.fn f).mrrs o.off o.len
    let left := o.len - n
    let rest := if left = 0 then [] else [{ o with off := o.off + n, leaf := o.leaf + n, len := left }]
    let P1 := P.issueRead { tag := 0, fn := f, addr := (P.fn f).ovfBase + o.off, len := n, what := .overflow o.bole o.op o.leaf }
    let P2 := P1.updRt fun r => { r with
      ovfUsed := r.ovfUsed.upd 0 f fun used => used + ceilDiv n 64
      ovfPend := dropFirstOvf o rest r.ovfPend }
    P2.updNi o.bole fun n => n.updOp o.op fun x =>
      { x with awaiting := x.awaiting + 1, unsent := if left = 0 then 0 else x.unsent }

/-- What a beat does at its site (Table 4.1): a flit at an egress port, a PCIe request at the Root DMA port, of which the
credit that is left is a free value. What a granule access or a ring's request carries out is the effect of that access's own
row, which its grant orders (R64, log 42). -/
def Package.beatDone (P : Package) (e : Env) (i ch ctr : Nat) : Package :=
  if 33 ≤ i then
    match (P.link (i - 33)).beatFlit ch with
    | some f => P.updLinkAt e (i - 33) fun L => L.beat (P.comm.owner.get 0 (i - 33)) ch e.now f
    | none => P
  else if i = 32 then
    (if 64 ≤ ch ∧ ch ≤ 80 then P.ovfTlp (ch - 64) else P).updRt fun r => { r with credit := Config.pcieCredit ctr }
  else P

/-- Step 1 of an arbiter cycle, if the cycle's has not been carried out. -/
def Package.arbStep1 (P : Package) (e : Env) (i ctr : Nat) : Package :=
  if (P.arb i).driven then P
  else
    let (a, beat) := (P.arbBefore i).step1 e.now
    let (a1, up) := a.setDepth
    let P1 := (P.updArb i fun _ => a1).raiseArbWm up
    match beat with
    | some (ch, _) => P1.beatDone e i ch ctr
    | none => P1

/-- Step 2: the masks whose conditions hold take effect (R99, R100). -/
def Package.arbMasks (P : Package) (i : Nat) : Package :=
  let due := (List.range (arbRequesters i)).filter fun r => P.siteMasked i r && !(P.arb i).masked.contains r
  if due.isEmpty then P else P.updArb i fun a => due.foldl Arb.mask a

/-- Steps 1 to 3 of one arbiter cycle of an instance (R90). -/
def Package.arbCycle (P : Package) (e : Env) (i ctr : Nat) : Package :=
  let P1 := (P.arbStep1 e i ctr).arbMasks i
  P1.updArb i fun a => a.decide (P1.arbAdmits i)

/-! ### Requests (R93) -/

/-- Step 4 at a slice or egress port. -/
def Package.siteAccept (P : Package) (e : Env) (i : Nat) (reqs : List ArbReq) : Package :=
  let P0 := if 33 ≤ i then P.lkAdvance (i - 33) e.now else P
  let (P1, rs) := if 33 ≤ i then P0.presentAll e i reqs else (P0, reqs.filter fun r => !P0.siteMasked i r.req)
  let a0 : Arb := { P1.arb i with refused := (P1.arb i).refused.filter fun r => !P1.siteMasked i r.req }
  let (a, up) := Arb.accept i a0 rs (P1.arbClass i) e.now
  (P1.updArb i fun _ => a).raiseArbWm up

def Package.arbRequest (P : Package) (e : Env) (i : Nat) (reqs : List ArbReq) : Package :=
  if !P.arbRuns e i then P else if i = 32 then P.rootAccept e.now reqs else P.siteAccept e i reqs

def execArbRequest (p : PkgId) (i : ArbIx) (reqs : List ArbReq) (s : State) : Host.Outcome State Fault Refusal :=
  .next (s.onLive p fun P => P.arbRequest (s.env p) i reqs)

/-! ### Grants (R87, R88) -/

/-- A cycle without credit holds the instance's whole state (R91); what credit there is next is a free value. -/
def Package.creditNext (P : Package) (i ctr : Nat) : Package :=
  if i = 32 then P.updRt fun r => { r with credit := Config.pcieCredit ctr } else P

/-- One arbiter cycle, if its decision is a reserve grant or none, as the row says. -/
def Package.arbRow (P : Package) (e : Env) (i ctr : Nat) (reserve : Bool) : Package :=
  if !P.arbRuns e i then P.creditNext i ctr
  else
    let P1 := P.arbCycle e i ctr
    if (P1.arb i).planReserve = reserve then P1 else P

def execArbGrant (p : PkgId) (i : ArbIx) (s : State) : Host.Outcome State Fault Refusal :=
  .next (s.bump.onLive p fun P => P.arbRow (s.env p) i s.freeCtr false)

def execArbReserveGrant (p : PkgId) (i : ArbIx) (s : State) : Host.Outcome State Fault Refusal :=
  .next (s.bump.onLive p fun P => P.arbRow (s.env p) i s.freeCtr true)

/-! ### Withdrawal, masks, parameters (R98, R99, R102) -/

def execArbWithdraw (p : PkgId) (i : ArbIx) (req : Nat) (what : ArbWhat) (s : State) : Host.Outcome State Fault Refusal :=
  .next (s.onLive p fun P =>
    let leave (loser : Bool) : Package :=
      let (a, up) := (P.arb i).withdrawEntry req loser
      (P.updArb i fun _ => a).raiseArbWm up
    match what with
    | .entry => leave false
    | .loser => leave true
    | .transfer => P.updArb i fun a => a.withdrawTransfer req)

/-- A mask takes effect, between step 1 and step 3 of a cycle; its condition holds (R90, R99, R100). -/
def Package.arbMask (P : Package) (e : Env) (i r ctr : Nat) : Package :=
  if P.siteMasked i r && P.arbRuns e i then (P.arbStep1 e i ctr).updArb i fun a => a.mask r else P

def execArbMask (p : PkgId) (i : ArbIx) (req : Nat) (s : State) : Host.Outcome State Fault Refusal :=
  .next (s.bump.onLive p fun P => P.arbMask (s.env p) i req s.freeCtr)

/-- A mask is cleared once its condition holds no more. -/
def execArbMaskClear (p : PkgId) (i : ArbIx) (req : Nat) (s : State) : Host.Outcome State Fault Refusal :=
  .next (s.onLive p fun P => if P.siteMasked i req then P else P.updArb i fun a => a.unmask req)

def execArCtrlWrite (p : PkgId) (i : ArbIx) (v : BitVec 32) (s : State) : Host.Outcome State Fault Refusal :=
  .next (s.onLive p fun P => if P.rt.lock then P else P.updArb i fun a => Arb.writeCtrl i a v.toNat)

def execArClassWrite (p : PkgId) (i : ArbIx) (n : Fin 6) (v : BitVec 32) (s : State) : Host.Outcome State Fault Refusal :=
  .next (s.onLive p fun P => P.updArb i fun a => Arb.writeClass i a n v.toNat)

end Sys2Proof.Machine
end

