-- ==== Sys2Proof/Machine/ResetCore.lean ====
section
/-! DEFINITION. Shared operations of resets and aborts: repair load, halting boles, what each reset clears, stopping rings
(R20, R148, R265, R338, R409, R419, R427, R436 to R440). -/

namespace Sys2Proof.Machine

/-! ### Repair load (R438, R439) -/

def Package.defects (P : Package) : List Defect := P.rt.fuse ++ ((P.rt.field.map fun x => x.2).filter fun d => d.kind != 0)

def Package.hasDefect (P : Package) (kind c r : Nat) : Bool :=
  P.defects.any fun d : Defect => d.kind == kind && d.col == c && d.row == r

/-- The skipped row of a column: its lowest row with a defective bole or router; 8 for none. -/
def Package.skipRow (P : Package) (c : Nat) : Nat :=
  ((List.range 9).find? fun r => P.hasDefect 1 c r || P.hasDefect 2 c r).getD 8

/-- Graft channels that carry no logical row because they are defective. -/
def Package.goodChannels (P : Package) : List Nat :=
  (List.range 9).filter fun ch => !P.defects.any fun d : Defect => d.kind == 3 && d.row == ch

/-- Geometry that the defects give (R19, R22, R148): logical rows take the good graft channels in ascending order. -/
def Package.repairOf (P : Package) : Repair :=
  { spare := (List.range 8).map fun c => (c, P.skipRow c)
    dead := BitVec.ofNat 8 (((List.range 8).filter fun c => P.hasDefect 2 c (P.skipRow c)).map fun c => 2 ^ c).sum
    graft := (P.goodChannels.take 8).zipIdx.map fun (ch, ly) => (ly, ch) }

/-- Is the bole at a logical position powered (R438, R439)? -/
def Package.powerOf (P : Package) (k : Nat) : BoleUp :=
  if P.hasDefect 1 (k % 8) (P.physRow (k % 8) (k / 8)) || P.comm.oos.getLsbD k then .off else .up

/-- Leaf memory stays with its physical bole; a spare that is mapped in is zeroed (R78). -/
def Package.leafFrom (old P : Package) (k : Nat) : Leaf :=
  match old.boleAt (P.rtrOf k) with
  | some k' => (old.bole k').leaf.turnsReset
  | none => {}

def Package.loadRepair (old : Package) : Package :=
  let P : Package := { old with repair := old.repairOf }
  { P with boles := (List.range 64).map fun k =>
      (k, { P.bole k with st := P.powerOf k, leaf := Package.leafFrom old P k }) }

/-! ### Notices (R338) -/

/-- A loss notice for a tag; machine traffic has none. -/
def State.sendLoss (s : State) (p tag tick : Nat) (isAbort : Bool) : State :=
  if tag = 0 then s
  else s.updStand (p / 64) fun r => { r with notices := r.notices ++ [{ tag := tag, tick := tick, isAbort := isAbort }] }

def Package.tags (P : Package) : List Nat := (((List.range 64).map P.tagOf).filter fun t => t != 0).dedup

/-! ### Boles -/

/-- BOLE_RUN stop: the program halts, and HALTED says so. -/
def Package.halt (P : Package) (k : Nat) : Package :=
  if (P.bole k).running then (P.updBole k fun b => { b with running := false }).setBoleLeaf k bcHalted else P

/-- Groups keep their records; a bole reset clears EPOCH and LAUNCHES, and no held write is left (R477). -/
def Group.reset (G : Group) : Group := { G with epoch := 0, launches := 0, held := none }

/-- What a bole reset clears of the scheduled plane: streams, credits and occurrences; the banks stay (R212). -/
def Sched.boleReset (S : Sched) : Sched := { S with streams := [], occNum := [], occ := [], recWin := [], checking := none, armed := false }

/-- 10 microseconds, the time a bole reset takes (Table 16.7). -/
def boleResetTime : Nat := 15000

/-- A bole reset (Table 16.8): memory, causes and the group records stay; the NI starts in quarantine (R265). -/
def Bole.reset (b : Bole) (tick now : Nat) : Bole :=
  { st := if b.st = .off then .off else .inReset, rstEnd := now + boleResetTime, cause := b.cause
    leaf := b.leaf.turnsReset, sched := b.sched.boleReset, shaper := b.shaper
    ni := { quarantine := some (tick + 8) }
    coll := { groups := b.coll.groups.map fun x => (x.1, x.2.reset) } }

/-- Overflow reads of a bole's DMA land nowhere any more. -/
def Package.dropOvf (P : Package) (k : Nat) : Package :=
  P.updRt fun r => { r with
    ovfPend := r.ovfPend.filter fun x : OvfPend => x.bole != k
    reads := r.reads.map fun x : HostRead => match x.what with
      | .overflow b _ _ => if b = k then { x with what := .stale } else x
      | _ => x
    readWait := r.readWait.filter fun x : HostRead => match x.what with
      | .overflow b _ _ => b != k
      | _ => true }

/-- Does an access on a path at an offset reach the NI control range of bole k? -/
def pathBole (k : Nat) (path : Path) (o : Nat) : Bool :=
  match path with
  | .program j | .niWrite _ j => decide (j.val = k)
  | .pcie f => decide (f.val = 0 ∧ 0x80000 ≤ o ∧ (o - 0x80000) / 0x2000 = k)
  | .mctp => decide (0x80000 ≤ o ∧ (o - 0x80000) / 0x2000 = k)
  | .config _ => false

/-! ### Rings stop (R409, R422, R427) -/

/-- The first non-zero status is the lowest (R398). -/
def mergeStatus (a b : Nat) : Nat := if a = 0 then b else if b = 0 then a else min a b

def Desc.op (d : Desc) : Nat := fld d.bytes 0 1
def Desc.flags (d : Desc) : Nat := fld d.bytes 1 1
def Desc.haddr (d : Desc) : Nat := fld d.bytes 8 8
def Desc.daddr (d : Desc) : Nat := fld d.bytes 16 8
def Desc.len (d : Desc) : Nat := fld d.bytes 24 4
def Desc.b28 (d : Desc) : Nat := fld d.bytes 28 1
/-- x, y and local part of DADDR. -/
def Desc.x (d : Desc) : Nat := bits d.daddr 48 40
def Desc.y (d : Desc) : Nat := bits d.daddr 39 32
def Desc.loc (d : Desc) : Nat := bits d.daddr 31 0
def Desc.bole (d : Desc) : Nat := localOf d.x d.y

/-- Byte of a FILL at device address a (Table 15.8). -/
def Desc.patByte (d : Desc) (a : Nat) : Byte := BitVec.ofNat 8 (fld d.bytes (32 + a % 8) 1)
def Desc.fillBytes (d : Desc) (a n : Nat) : List Byte := (List.range n).map fun i => d.patByte (a + i)

/-- Does the crossbar admit an access of the Root on behalf of function f to [a, a + n), as bole k sees it (R67)? -/
def Package.rootOk (P : Package) (f k a n : Nat) : Bool :=
  match regionOf k a n with
  | .leaf _ => true
  | .heart h o => P.heartOk (P.tagOfFn f) h o n
  | _ => false

/-- Bytes of the granule that a local address lies in: 64 in leaf memory, 128 in heartwood (R61, R63). -/
def granBytes (a : Nat) : Nat := if a < 0x40000000 then 64 else 128

/-- Write bytes of a transfer, granule by granule: all that the crossbar admits, or those of them that a free value names. -/
def Package.landPiece (P : Package) (f k a : Nat) (bs : List Byte) (part : Option Nat) : Package :=
  if part.isNone && P.rootOk f k a bs.length then P.memWrite k a bs
  else (splitAll (granBytes a) a bs.length).foldl (fun P x =>
    let go := match part with | none => true | some ctr => Config.newGranule ctr (x.1 / 64)
    if go && P.rootOk f k x.1 x.2 then P.memWrite k x.1 ((bs.drop (x.1 - a)).take x.2) else P) P

/-- What a descriptor's transfer into the device writes: what its reads returned, or its pattern. -/
def Package.landDesc (P : Package) (f : Nat) (d : Desc) (part : Option Nat) : Package :=
  if d.op = 1 then
    d.got.foldl (fun P x => P.landPiece f d.bole (d.loc + x.1) x.2.1 part) P
  else if d.op = 3 then P.landPiece f d.bole d.loc (d.fillBytes d.loc d.len) part
  else P

/-- A bole's reset ends what descriptors in execution do at it (R399): granules written before it keep their new bytes, none
is written after it, and the descriptors end with TARGET_RESET. -/
def Package.targetReset (P : Package) (k ctr : Nat) : Package :=
  (List.range 17).foldl (fun P f => ((P.fn f).rings.map fun x => x.1).foldl (fun P r =>
    let hit (d : Desc) : Bool := [1, 2, 3, 4, 5, 8, 9].contains d.op && d.bole == k && d.status != 3
    let P1 := ((P.ring f r).exec.filter hit).foldl (fun P d => P.landDesc f d (some ctr)) P
    P1.updRing f r fun R => { R with
      exec := R.exec.map fun d : Desc => if hit d then { d with status := mergeStatus d.status 3, got := [] } else d }) P) P

def Package.boleReset (P : Package) (k now ctr : Nat) : Package :=
  let P1 := ((P.targetReset k ctr).dropOvf k).updBole k fun b => b.reset P.tick now
  { P1 with parts := P1.parts.filter fun x : PartReg => !pathBole k x.path x.offset
            latches := P1.latches.filter fun x : HalfLatch => !pathBole k x.path x.offset }

/-- The bole is reset, and the Rootstock sends a loss notice (R419, R421). -/
def State.resetBole (s : State) (p k : Nat) : State :=
  let P := s.pkg p
  (s.bump.updPkg p fun P => P.boleReset k s.now s.freeCtr).sendLoss p (P.tagOf k) P.tick false

/-- Is some access of a transfer one that the crossbar turns away: address error (R67)? -/
def Package.rootRefused (P : Package) (f : Nat) (d : Desc) : Bool :=
  if d.op = 1 then d.got.any fun x => !P.rootOk f d.bole (d.loc + x.1) x.2.1.length
  else !P.rootOk f d.bole d.loc d.len

/-- Descriptors in execution end with ABORTED and write no more; a granule holds its old or its new bytes (R399). -/
def Package.stopExec (P : Package) (f r ctr : Nat) : Package :=
  let R := P.ring f r
  let P1 := R.exec.foldl (fun P d => P.landDesc f d (some ctr)) P
  P1.updRing f r fun R => { R with
    exec := []
    ended := R.ended ++ R.exec.map fun d : Desc => { d with status := mergeStatus d.status 9, got := [] } }

/-- A ring enters STOPPED, or QUIESCED-BME. -/
def Package.stopRing (P : Package) (f r ctr : Nat) (st : RingState) : Package :=
  (P.stopExec f r ctr).updRing f r fun R => { R with st := st }

def Package.ringsOf (P : Package) (f : Nat) : List Nat :=
  (List.range 16).filter fun r => decide ((P.ring f r).st ≠ .disabled)

/-! ### Aborts (R427 to R430) -/

def Package.scope (P : Package) (f : Nat) : List Nat := P.bolesOfTag (P.tagOfFn f)

/-- Step 2 at one bole: the program halts, triggers are disarmed, queues are emptied, the scheduled plane stops at the next
tick, and launches that wait for a lane end with ABORT. -/
def Package.stopWork (P : Package) (e : Env) (k : Nat) : Package :=
  let P0 := (P.halt k).dropOvf k
  let waiting := (P0.coll k).ops.filter fun o : CollOp => !o.started
  let P1 := waiting.foldl (fun P o => P.collEnd e k o 4 0) P0
  let P2 := P1.updBole k fun b => { b with
    sched := { b.sched with stopping := true, armed := false, checking := none }
    ni := { b.ni with q := [], ops := [], reqs := [], inj := [], mc := [], aborting := true }
    coll := { (b.coll.setTrigQ [] e.now).setSendQ [] e.now with
      trig := b.coll.trig.map fun x => (x.1, { x.2 with v := false })
      fired := [], engQ := [], laneReady := [], deficit := [] } }
  (List.range 4).foldl (fun P v => P.sampleQ k v e.now) P2

/-- Start of an abort (R426, R427): its books, its rings, its boles. -/
def Package.startAbort (P : Package) (e : Env) (f ctr : Nat) : Package :=
  let P1 := (P.ringsOf f).foldl (fun P r => P.stopRing f r ctr .stopped) P
  let P2 := P1.updFn f fun F => { F with abort := { F.abort with
    state := 1, startTick := P.tick, startPeriod := P.tk.period, startAt := e.now, collDone := false } }
  (P.scope f).foldl (fun P k => P.stopWork e k) P2

def State.startAbort (s : State) (p f : Nat) : State :=
  let P := s.pkg p
  ((s.bump.updPkg p fun P => P.startAbort (s.env p) f s.freeCtr)).sendLoss p (P.tagOfFn f) P.tick true

/-- A start while the abort runs is counted (R426). -/
def State.askAbort (s : State) (p f : Nat) : State :=
  if ((s.pkg p).fn f).abort.state = 1 then
    s.updPkg p fun P => P.updFn f fun F => { F with abort := { F.abort with repeats := min 31 (F.abort.repeats + 1) } }
  else s.startAbort p f

/-- The boles of the scope take work again once they are started (R430). -/
def Package.freeScope (P : Package) (f : Nat) : Package :=
  (P.scope f).foldl (fun P k => P.updNi k fun n => { n with aborting := false }) P

/-- Step 5 (R428): every operation of the scope ends with ABORT. -/
def Package.endColls (P : Package) (e : Env) (f : Nat) : Package :=
  (P.scope f).foldl (fun P k => (P.coll k).ops.foldl (fun P o => P.collEnd e k o 4 0) P) P

/-! ### Functions -/

/-- What a function reset leaves (Table 16.8): ESCALATED, and NOGLADE by the slot. FRESH is set (R449). -/
def Func.cleared (F : Func) : Func := { escalated := F.escalated, noGlade := F.noGlade }

/-- Does an access on a path at an offset reach the function space of function f? -/
def pathFn (f : Nat) (path : Path) (o : Nat) : Bool :=
  match path with
  | .pcie g => decide (g.val = f ∧ o < 0x10000)
  | .mctp => decide (f = 0 ∧ o < 0x10000)
  | .config g => decide (g.val = f)
  | _ => false

/-- No bank is active in the routers of a function's glade (Table 16.8, R212). -/
def Package.banksOff (P : Package) (f : Nat) : Package :=
  (P.scope f).foldl (fun P k => P.updBole k fun b =>
    { b with sched := { b.sched with active := 0, armed := false, checking := none, stopping := false } }) P

/-- The leaves of a function's boles are part of its function space (Tables 16.3 and 16.8). -/
def Package.causesOff (P : Package) (f : Nat) : Package :=
  (P.scope f).foldl (fun P k => P.updBole k fun b => { b with cause := {} }) P

def Package.clearFn (P : Package) (f : Nat) : Package :=
  let P1 := ((((P.dropReads f).freeScope f).banksOff f).causesOff f).updFn f Func.cleared
  { P1 with parts := P1.parts.filter fun x : PartReg => !pathFn f x.path x.offset
            latches := P1.latches.filter fun x : HalfLatch => !pathFn f x.path x.offset }

/-- Overflow reads of a function, outstanding or waiting, fault with overflow unavailable (R422). -/
def Package.failOvf (P : Package) (f code : Nat) : Package :=
  let mine (k : Nat) : Bool := P.fnOf k == f
  let base := (P.fn f).ovfBase
  let outs := P.rt.reads.filterMap fun x : HostRead => match x.what with
    | .overflow k op _ => if mine k then some (k, op, 0x80000000 + (x.addr - base)) else none
    | _ => none
  let waits := (P.rt.ovfPend.filter fun x : OvfPend => mine x.bole).map fun x : OvfPend => (x.bole, x.op, 0x80000000 + x.off)
  let all := (outs ++ waits).foldl (fun (acc : List (Nat × Nat × Nat)) x =>
    if acc.any fun y => y.1 == x.1 && y.2.1 == x.2.1 then acc else acc ++ [x]) []
  let P1 := P.updRt fun r => { r with ovfPend := r.ovfPend.filter fun x : OvfPend => !mine x.bole }
  all.foldl (fun P x => (P.updNi x.1 fun n => { n with ops := n.ops.filter fun o : NiOp => o.id != x.2.1 }).fault x.1 code x.2.2) P1

/-- Escalation (R431): the boles that did not confirm are reset, and the function is, without its abort. -/
def State.escalate (s : State) (p f : Nat) (unconfirmed : BitVec 64) : State :=
  let ks := ((s.pkg p).scope f).filter fun k => unconfirmed.getLsbD k
  let s1 := ks.foldl (fun s k => s.resetBole p k) s
  let s2 := s1.updPkg p fun P =>
    ((P.clearFn f).updFn f fun F => { F with escalated := true, abort := { F.abort with state := 3 } }).setFuncLeaf f
      fnAbortEscalated
  s2.updStand (p / 64) fun r => { r with alarms := r.alarms ++ [.abortEscalated (p % 64) f] }

/-! ### Packages -/

/-- A cold reset: everything but the factory fuse map and what has already left on PCIe. -/
def Package.coldClear (P : Package) : Package :=
  ({ powered := true, reset := .cold, rt := { fuse := P.rt.fuse, tlps := P.rt.tlps, serial := P.rt.serial } } : Package).loadRepair

/-- A cold reset at a moment, from which the bound of bring-up runs (R437). -/
def Package.coldStart (now : Nat) (P : Package) : Package := P.coldClear.updRt fun r => { r with pwrAt := now }

/-- A warm reset keeps RT_POSITION, the field defects, memory and the Root's PCIe link (Table 16.8). -/
def Package.warmClear (P : Package) : Package :=
  let Q : Package := {
    powered := true, reset := .warm, repair := P.repair
    rt := { fuse := P.rt.fuse, field := P.rt.field, tlps := P.rt.tlps, serial := P.rt.serial, pwrAt := P.rt.pwrAt
            stand := P.rt.stand, px := P.rt.px, py := P.rt.py
            posV := P.rt.posV, width := P.rt.width, speed := P.rt.speed, linkUp := P.rt.linkUp }
    west := P.west, east := P.east
    boles := P.boles.map fun x => (x.1, { leaf := x.2.leaf.turnsReset }) }
  Q.loadRepair

/-- Every glade of a package that begins a reset is told of (R421). -/
def State.lossAll (s : State) (p : Nat) : State :=
  let P := s.pkg p
  P.tags.foldl (fun s t => s.sendLoss p t P.tick false) s

end Sys2Proof.Machine
end

