-- ==== Sys2Proof/Machine/MemCmds.lean ====
section
/-! DEFINITION. Scrubbing, overflow reads and zeroing: rows MEMORY_SCRUB_WRITEBACK, OVERFLOW_READ_ISSUE to RT_ZERO_DONE
(R68, R70 to R76, R247, R406, R450). -/

namespace Sys2Proof.Machine

/-! ### Scrub (R247) -/

/-- A corrected word is written back: its stored code is good again. -/
def Mem.scrub (m : Mem) (word : Nat) : Mem := if m.ecc.get 0 word = 1 then { m with ecc := m.ecc.erase word } else m

def execMemoryScrubWriteback (p : PkgId) (m : MemSel) (word : Nat) (s : State) : Host.Outcome State Fault Refusal :=
  .next (s.onLive p fun P => match m with
    | .leaf k => P.updBole k fun b => { b with leaf := { b.leaf with mem := b.leaf.mem.scrub word } }
    | .heart h => P.setHeart h ((P.heart h).scrub word))

/-! ### Overflow reads -/

/-- The arbiter cycle in which a function's overflow stream issues its next PCIe request (R72, R75): its transfer holds the
port, and the budget has covered it at the grant. -/
def Package.ovfIssue (P : Package) (e : Env) (f ctr : Nat) : Package :=
  if (P.arb 32).nextBeat = some (64 + f) ∧ P.arbRuns e 32 then (P.arbCycle e 32 ctr).rootAccept e.now [] else P

def execOverflowReadIssue (p : PkgId) (f : FnIx) (s : State) : Host.Outcome State Fault Refusal :=
  .next (s.bump.onLive p fun P => P.ovfIssue (s.env p) f s.freeCtr)

/-- The local address that an overflow read names. -/
def Package.ovfLocal (P : Package) (x : HostRead) : Nat := 0x80000000 + (x.addr - (P.fn x.fn).ovfBase)

/-- An overflow read has ended with a fault of its DMA (Table 15.12). -/
def Package.ovfFault (P : Package) (x : HostRead) (k op code : Nat) : Package :=
  (P.updNi k fun n => n.opAnswered op true).fault k code (P.ovfLocal x)

/-- The completion of an overflow read: the data lands before the DMA's completion is visible (R76, Table 10.2). -/
def Package.ovfDone (P : Package) (x : HostRead) (k op leaf : Nat) (st : CplStatus) (data : List Byte) : Package :=
  let P0 := P.endRead x.tag
  match st with
  | .ok => (P0.leafWrite k leaf (padTo x.len data)).opEnds k op false
  | .ep =>
    let P1 := P0.leafWrite k leaf (padTo x.len data)
    let P2 := (granules 64 leaf x.len).foldl (fun P g => P.leafPoison k g) P1
    P2.ovfFault x k op fcOvfPoisoned
  | _ => P0.ovfFault x k op fcOvfUnavailable

/-- A completion of a read that has already ended is discarded and counted (R406). -/
def Package.lateCpl (P : Package) : Package :=
  P.updRt fun r => { r with cntLate := { r.cntLate with live := sat32 r.cntLate.live 1 } }

def execOverflowReadCompletion (p : PkgId) (tag : Nat) (status : CplStatus) (data : List Byte) (s : State) :
    Host.Outcome State Fault Refusal :=
  .next (s.onLive p fun P => match P.readTagged tag with
    | some x => match x.what with
      | .overflow k op leaf => ((P.hostError x.fn (some status)).ovfDone x k op leaf status data).noteResets s.now
      | .stale => ((P.hostError x.fn (some status)).endRead tag).noteResets s.now
      | _ => P
    | none => P.lateCpl)

/-- A budget write that would pass the ceiling leaves every budget and sets BADCFG of the PF (R73). -/
def Package.budgetWrite (P : Package) (f : Nat) (view : View) (units : Nat) : Package :=
  let t := (P.view view).budget.set f units
  if !P.viewOpen view then P
  else if P.rt.ovfCeil < budgetSum t then P.updFn 0 fun F => { F with badCfg := true }
  else P.updView view fun g => { g with budget := t }

/-- A ceiling below the budgets that stand, in either view, is refused in the same way (R73; the staged view too: log 46). -/
def Package.ceilWrite (P : Package) (v : Nat) : Package :=
  if v < max (budgetSum P.comm.budget) (budgetSum P.stag.budget) then P.updFn 0 fun F => { F with badCfg := true }
  else P.updRt fun r => { r with ovfCeil := v }

def execRtOvfBudgetWrite (p : PkgId) (f : FnIx) (view : View) (units : BitVec 16) (s : State) :
    Host.Outcome State Fault Refusal :=
  .next (s.onLive p fun P => P.budgetWrite f view units.toNat)

/-! ### Zeroing (R68, R450) -/

/-- A START while BUSY is 1 is ignored (R469). -/
def Package.zeroStart (P : Package) (slot : Nat) : Package :=
  if P.rt.zeroBusy then P else P.updRt fun r => { r with zeroBusy := true, zeroSlot := slot }

def execRtZeroStart (p : PkgId) (slot : Fin 16) (s : State) : Host.Outcome State Fault Refusal :=
  .next (s.onLive p fun P => P.zeroStart slot)

/-- Zero a half's allocation of a slot. -/
def Package.zeroHeart (P : Package) (h : Half) (slot : Nat) : Package :=
  let a := P.hwa h slot
  P.setHeart h ((P.heart h).zeroRange 128 (mib * a.base) (mib * a.size))

/-- Every leaf byte of the slot's boles and every byte of its allocations. -/
def Package.zeroSlot (P : Package) (slot : Nat) : Package :=
  let ks := P.bolesOfTag (P.comm.vfGlade.get 0 (slot + 1))
  let P1 := ks.foldl (fun P k => P.updBole k fun b => { b with leaf := { b.leaf with mem := b.leaf.mem.zeroRange 64 0 leafTop } }) P
  (P1.zeroHeart .west slot).zeroHeart .east slot

end Sys2Proof.Machine
end

