-- ==== Sys2Proof/Machine/Sched.lean ====
section
/-! DEFINITION. The scheduled plane: STREAM_READAHEAD to NI_SCHED_HDR_WRITE, and SCHEDULED_FLIT_SEND
(R190 to R215, R474, R475). -/

namespace Sys2Proof.Machine

/-! ### Running entries -/

/-- An entry of bank b, as the router holds it now. -/
def Sched.entry (S : Sched) (b i : Nat) : Option SEntry :=
  let x := sEntry (S.entries.get 0 i)
  if bankHolds b i && x.v then some x else none

/-- An entry that runs in the present window. -/
def Package.runningEntry (P : Package) (k i : Nat) : Option SEntry :=
  let S := P.sched k
  match S.entry S.active i with
  | some x => if S.runsIn S.active x P.tick then some x else none
  | none => none

/-! ### Streams (R202 to R205) -/

def Stream.bufAt (d : Stream) (occ : Nat) : Nat := d.addr + occ % (if d.nbuf = 0 then 1 else d.nbuf) * d.advance

/-- Flits of an occurrence as the source reads them: payload and poison (R203, R248). -/
def Package.readFlits (P : Package) (k a : Nat) : Nat → List (List Byte × Bool) × Package
  | 0 => ([], P)
  | n + 1 =>
    let (bs, p, P1) := P.leafRead k a 64
    let (l, P2) := P1.readFlits k (a + 64) n
    ((bs, p) :: l, P2)

/-- Does the standby bank, armed, come into force at tick w (R210)? -/
def Package.switchesIn (P : Package) (k w : Nat) : Bool :=
  let S := P.sched k
  let h := S.hdr S.standby
  S.armed && decide (S.switchTick = w ∧ h.periodUs = (if P.tk.switchTick = w then P.tk.periodNext else P.tk.period) ∧
    h.tag = P.tagOf k)

/-- Bank that runs in window w: of the next window, what is armed or stopped is known (R203, R210, R211). -/
def Package.bankIn (P : Package) (k w : Nat) : Nat :=
  let S := P.sched k
  if w = P.tick then S.active
  else if P.switchesIn k w then S.standby
  else if S.stopping || (S.armed && decide (S.switchTick = w)) then 0
  else S.active

/-- Window that the entry of a read-ahead at this cycle belongs to: the present one, or the next when START is below 32. -/
def Package.aheadWin (P : Package) (e : Env) (x : SEntry) : Option Nat :=
  if 32 ≤ x.start ∧ P.cyc e + 32 = x.start then some P.tick
  else if x.start < 32 ∧ P.cyc e + 32 = P.winLen + x.start then some (P.tick + 1)
  else none

/-- Injection entry i, when its read-ahead is at this cycle, and the window that it reads ahead for. -/
def Package.aheadOf (P : Package) (e : Env) (k i : Nat) : Option (SEntry × Nat) :=
  let S := P.sched k
  match P.aheadWin e (sEntry (S.entries.get 0 i)) with
  | none => none
  | some w =>
    match S.entry (P.bankIn k w) i with
    | none => none
    | some x => if x.inp = 4 ∧ S.runsIn (P.bankIn k w) x w then some (x, w) else none

/-- Occurrence number of a stream in window w: 0 when its bank comes into force there (R202). -/
def Package.occNo (P : Package) (k n w : Nat) : Nat :=
  if w ≠ P.tick ∧ P.switchesIn k w then 0 else (P.sched k).occNum.get 0 n

/-- The read-ahead of R203. A stream without a descriptor sends nothing (R212). -/
def Package.readahead (P : Package) (e : Env) (k i : Nat) : Package :=
  match P.aheadOf e k i with
  | none => P
  | some (x, w) =>
    let d := (P.sched k).stream x.stream
    let n := P.occNo k x.stream w
    let late := decide (d.credit = 0)
    if d.eject ∨ d.flits = 0 then P else
    let (fl, P1) := if late then (List.replicate d.flits (List.replicate 64 0, false), P) else P.readFlits k (d.bufAt n) d.flits
    let o : Occ := { d := d, k := n, window := w, data := fl, sawVoid := late }
    let P2 := P1.updSched k fun S => { S.setOcc x.stream w (some o) with
      occNum := if w ≠ P.tick ∧ P.switchesIn k w then S.occNum else S.occNum.set x.stream (n + 1)
      streams := if late then S.streams else S.streams.upd {} x.stream fun d => { d with credit := d.credit - 1 } }
    if late then P2.count k cSCHEDLATE else P2

def execStreamReadahead (p : PkgId) (k : BoleIx) (entry : Fin 8192) (s : State) : Host.Outcome State Fault Refusal :=
  .next (s.onBole p k fun e P => P.readahead e k entry)

/-- One credit more for an inject stream (R203). -/
def Package.sready (P : Package) (k stream : Nat) : Package :=
  let d := (P.sched k).stream stream
  if d.eject then P
  else if 255 ≤ d.credit then P.count k cINJREFUSED
  else P.updSched k fun S => { S with streams := S.streams.set stream { d with credit := d.credit + 1 } }

def execNiSreadyWrite (p : PkgId) (k : BoleIx) (stream : Fin 1024) (s : State) : Host.Outcome State Fault Refusal :=
  .next (s.onBole p k fun _ P => P.sready k stream)

/-! ### Flits on their way (R190, R192, R197, R199, R200, R245, R246) -/

/-- A flit waiting at an input of the router of bole k for a scheduled entry: in a landing buffer, or off the link. -/
def Package.landHead (P : Package) (now k inp : Nat) : Option SchedFlit :=
  match linkOf k inp with
  | some l => (P.link l).rxSched.head?
  | none => match (P.rtr (P.rtrOf k)).landing.get [] inp with
    | (t, f) :: _ => if t ≤ now then some f else none
    | [] => none

def Package.landPop (P : Package) (k inp : Nat) : Package :=
  match linkOf k inp with
  | some l => P.updLink l fun L => { L with rxSched := L.rxSched.drop 1 }
  | none => P.updRtr (P.rtrOf k) fun R => { R with landing := R.landing.upd [] inp fun q => q.drop 1 }

/-- The router that the next entry stands at, behind an output port, the hop delay, and the live router of a skipped row that
the hop crosses: one hop of D = 4 (R197, R491). -/
def Package.schedHop (P : Package) (k o : Nat) : Option (Nat × Nat × Nat × Option Nat) :=
  match P.hop (P.rtrOf k) o with
  | .rtr r p =>
    match P.boleAt r with
    | some _ => some (r, p, if (k % 8 = 3 ∧ o = 1) ∨ (k % 8 = 4 ∧ o = 3) then 16 else 2, none)
    | none => match P.hop r o with
      | .rtr r' p' => some (r', p', 4, some r)
      | _ => none
  | _ => none

/-- The check, with the NI of bole k counting what it finds (R246). -/
def Package.schedCheck (P : Package) (k : Nat) (f : SchedFlit) (ev : HopEvent) : Option SchedFlit × Package :=
  (f.checked ev, P.hopEvent k ev)

/-- The checks of two elements in turn: what the first discards never reaches the second. -/
def Package.schedCheck2 (P : Package) (k : Nat) (f : SchedFlit) (read arrive : HopEvent) : Option SchedFlit × Package :=
  match P.schedCheck k f read with
  | (none, P1) => (none, P1)
  | (some g, P1) => P1.schedCheck k g arrive

/-- A port has carried a flit in this cycle. -/
def Package.portTaken (P : Package) (r o now : Nat) : Package :=
  P.updRtr r fun R => { R with outCyc := R.outCyc.upd [] o fun l => ((now + 1) :: l).take 3 }

/-- Send one scheduled flit out of a port, in its header slot of Table 8.5, or in a link flit of Table 14.4. -/
def Package.schedOut (P : Package) (e : Env) (k o : Nat) (f : SchedFlit) (skip : HopEvent) : Package :=
  let P1 := P.portTaken (P.rtrOf k) o e.now
  match linkOf k o with
  | some l =>
    let L := P1.link l
    if f.tag ≠ P1.comm.owner.get 0 l then P1.updLink l fun L => L.count lkESCAPE
    else if L.train = .active then P1.updLink l fun L => L.asmPut (linkSched f) .sched
    else P1
  | none => match P1.schedHop k o with
    | some (r, p, d, via) =>
      let (f1, P2) := match via with
        | some rs => P1.schedCheck (P1.eventBole rs) f skip
        | none => (some f, P1)
      match f1 with
      | some g => P2.updRtr r fun R => { R with landing := R.landing.upd [] p fun q => q ++ [(e.now + d, g.resent)] }
      | none => P2
    | none => P1

/-- The flit that an injection entry sends in slot i: flit i of the occurrence in progress (R192). -/
def Package.injectSlot (P : Package) (e : Env) (k : Nat) (x : SEntry) (i : Nat) (skip : HopEvent) : Package :=
  match (P.sched k).occAt x.stream P.tick with
  | none => P
  | some o =>
    match o.data[i]? with
    | none => P
    | some (bs, bad) =>
      if o.window ≠ P.tick ∨ o.d.eject ∨ P.up k = false ∨ i < o.seen then P
      else
        let f : SchedFlit := { stream := x.stream, idx := i, poison := bad, isVoid := o.sawVoid, win2 := o.window % 4,
                               tag := P.tagOf k, data := bs }
        (P.updSched k fun S => S.setOcc x.stream P.tick
          (some { o with seen := i + 1, landed := o.landed + 1 })).schedOut e k x.out f skip

def Package.schedSend (P : Package) (e : Env) (k i : Nat) (ev skip : HopEvent) : Package :=
  match P.runningEntry k i with
  | none => P
  | some x =>
    if x.out = 4 ∨ P.entryStands e k x = false then P
    else match x.slotIx (P.cyc e) with
    | none => P
    | some n =>
      if x.inp = 4 then P.injectSlot e k x n skip
      else match P.landHead e.now k x.inp with
        | none => P
        | some f0 => match (P.landPop k x.inp).schedCheck k f0 ev with
          | (some f, P1) => P1.schedOut e k x.out f skip
          | (none, P1) => P1

/-- Has the port that an entry feeds carried a flit in this cycle? -/
def Package.entryUsed (P : Package) (now k i : Nat) : Bool :=
  match P.runningEntry k i with
  | some x => (P.rtr (P.rtrOf k)).portUsed x.out now
  | none => false

/-- ev is found at the router's input, skip at the live router of a skipped row that the hop out of it crosses. -/
def execScheduledFlitSend (p : PkgId) (k : BoleIx) (entry : Fin 8192) (ev : HopEvent) (s : State) (skip : HopEvent := {}) :
    Host.Outcome State Fault Refusal :=
  let s1 := s.inCycle ((s.pkg p).live && (s.pkg p).entryUsed s.now k entry)
  .next (s1.onLive p fun P => P.schedSend (s1.env p) k entry ev skip)

/-! ### Ejection (R192, R201, R204, R212, R214, R245) -/

/-- A flit of the stream reaches its NI. A stream without a descriptor discards it (R212). -/
def Package.ejectFlit (P : Package) (e : Env) (k : Nat) (x : SEntry) (f : SchedFlit) : Package :=
  match P.ejectOcc e k x with
  | none => P
  | some (o, S) =>
    let a := o.d.bufAt o.k + 64 * f.idx
    let o1 : Occ := { o with
      seen := o.seen + 1
      lastAt := if o.seen + 1 = o.d.flits then some e.now else o.lastAt
      landed := if f.isVoid && !f.hdrBad then o.landed else o.landed + 1
      firstBad := if f.poison && o.firstBad.isNone then some (if f.hdrBad then o.seen else f.idx) else o.firstBad
      poisoned := o.poisoned || f.poison
      sawVoid := o.sawVoid || (f.isVoid && !f.hdrBad) }
    let P1 := P.updSched k fun _ => S.setOcc x.stream P.tick (some o1)
    if f.isVoid = false ∧ f.hdrBad = false ∧ a + 64 ≤ leafTop then
      let P2 := P1.leafWrite k a (padTo 64 f.data)
      if f.poison then P2.leafPoison k (a / 64) else P2
    else P1

/-- Does an ejection entry take a flit in cycle c: on die in its slots, off a link in any of its reserved cycles (R214)? -/
def SEntry.ejects (x : SEntry) (k c : Nat) : Bool :=
  decide (x.out = 4) && (if (linkOf k x.inp).isSome then x.reserves c else (x.slotIx c).isSome)

def Package.schedEject (P : Package) (e : Env) (k i : Nat) (read arrive : HopEvent) : Package :=
  match P.runningEntry k i with
  | none => P
  | some x =>
    if x.ejects k (P.cyc e) = false then P
    else match P.landHead e.now k x.inp with
    | none => P
    | some f0 =>
      match ((P.landPop k x.inp).portTaken (P.rtrOf k) 4 e.now).schedCheck2 k f0 read arrive with
      | (none, P1) => P1
      | (some f, P1) =>
        if P.up k = false then P1
        else if f.hdrBad = false ∧ (f.tag ≠ P.tagOf k ∨ f.stream ≠ x.stream) then P1.count k cSCHEDFOREIGN
        else P1.ejectFlit e k x f

/-- read is what the check at the router's input finds, arrive that at the NI (R241). -/
def execSchedFlitEject (p : PkgId) (k : BoleIx) (entry : Fin 8192) (read arrive : HopEvent) (s : State) :
    Host.Outcome State Fault Refusal :=
  let s1 := s.inCycle ((s.pkg p).live && (s.pkg p).entryUsed s.now k entry)
  .next (s1.onLive p fun P => P.schedEject (s1.env p) k entry read arrive)

/-! ### Records (R204 to R207, Table 8.7, Table 8.8) -/

/-- Was a link untrained, or did it retrain, in some cycle of a window: the open one, or the one before? -/
def Link.failedIn (L : Link) (present : Bool) : Bool :=
  if present then L.eventWin || decide (L.train ≠ .active) else L.eventLast

/-- Did the link entries of a package's link reserve no cycle in some cycle of window w (R207)? -/
def Package.unreservedIn (P : Package) (e : Env) (l w : Nat) : Bool :=
  if w = P.tick then P.linkIdle e l || P.tk.lostWin
  else P.tk.offLast || P.tk.lostLast || (P.tk.interLast && P.linkInter e l)

/-- The package's routers ran no bank in some cycle of window w: it was LOST (R36, R207). -/
def Package.lostIn (P : Package) (w : Nat) : Bool := if w = P.tick then P.tk.lostWin else P.tk.lostLast

/-- Did a link hop that lands on link l of package p fail in window w: by either end's training, or by the schedule of the
package it comes from (Table 8.8)? -/
def State.linkFailed (s : State) (p l w : Nat) : Bool :=
  let P := s.pkg p
  let (st, px, py, l') := P.farEnd (s.env p) l
  let q := s.keyOf (s.leadOf (p / 64)) (64 * st + 8 * py + px)
  let Q := s.pkg q
  (P.link l).failedIn (w == P.tick) || (Q.link l').failedIn (w == Q.tick) || Q.unreservedIn (s.env q) l' w

/-- Status LINK for an occurrence at package p. -/
def State.linkEvent (s : State) (p : Nat) (o : Occ) : Bool :=
  (s.pkg p).lostIn o.window || (match o.link with | some l => s.linkFailed p l o.window | none => false)

/-- Status of an eject occurrence. -/
def Occ.status (o : Occ) (linkEvent : Bool) : Nat :=
  if linkEvent then 3
  else if o.seen < o.d.flits then 4
  else if o.sawVoid then 2
  else if o.poisoned then 1
  else 0

def Occ.record (o : Occ) (status : Nat) : List Byte :=
  leBytes 6 o.window ++ leBytes 1 status ++ leBytes 1 0 ++ leBytes 2 o.landed ++ leBytes 2 (o.firstBad.getD 0xFFFF) ++
    leBytes 4 (o.k % 2 ^ 32)

/-- A record is written at FLAG, or adds 1 to counter FLAG. -/
def Package.streamWrite (P : Package) (k : Nat) (d : Stream) (bs : List Byte) : Package :=
  if d.flagSel then P.updColl k fun c => c.addCtr (d.flag % 256) 1
  else if d.flag = 0 ∨ leafTop < d.flag + 16 then P
  else P.leafWrite k d.flag bs

/-- The record of an occurrence, where its stream asks for one; NI_CNT_SCHED_BAD counts those whose status is not 0 (R215). -/
def Package.writeRecord (P : Package) (k : Nat) (o : Occ) (status : Nat) : Package :=
  let P1 := P.streamWrite k o.d (o.record status)
  if status ≠ 0 ∧ (o.d.flagSel ∨ o.d.flag ≠ 0) then P1.count k cSCHEDBAD else P1

/-- Is an eject occurrence due its record: at the earlier of two moments, 48 cycles after the last of FLITS flits, and after
the last reserved cycle of its entry (R204)? -/
def Occ.due (o : Occ) (now : Nat) : Bool :=
  o.d.eject && (decide (o.endAt ≤ now) || (match o.lastAt with | some t => decide (t + 48 ≤ now) | none => false))

/-- The ejection entry of a stream that runs in the present window. -/
def Package.ejectEntry (P : Package) (k n : Nat) : Option SEntry :=
  (((P.sched k).running P.tick).find? fun x : Nat × SEntry => x.2.out == 4 && x.2.stream == n).map fun x => x.2

/-- The eject occurrence that is due its record, the earlier window's first; one of which nothing has landed is opened for
its record. -/
def Package.dueOcc (P : Package) (e : Env) (k n : Nat) : Option (Occ × Sched) :=
  let S := P.sched k
  match [S.occAt n (P.tick + 1), S.occAt n P.tick].reduceOption.find? fun o : Occ => o.due e.now with
  | some o => some (o, S)
  | none => match (P.ejectEntry k n).bind (P.ejectOcc e k) with
    | some (o, S') => if o.due e.now then some (o, S') else none
    | none => none

def Package.streamRecord (P : Package) (e : Env) (k n window : Nat) (linkEvent : Occ → Bool) : Package :=
  match P.dueOcc e k n with
  | none => P
  | some (o, S) =>
    if o.window = window then
      (P.updSched k fun _ => { S.setOcc n o.window none with recWin := S.recWin.set n (o.window + 1) }).writeRecord k o
        (o.status (linkEvent o))
    else P

def execStreamRecord (p : PkgId) (k : BoleIx) (stream : Fin 1024) (window : Nat) (s : State) :
    Host.Outcome State Fault Refusal :=
  .next (s.onBole p k fun e P => P.streamRecord e k stream window (s.linkEvent p))

/-- Has the last flit of an inject occurrence left? -/
def Occ.sent (o : Occ) : Bool := !o.d.eject && decide (o.data.length ≤ o.seen)

def Package.injectRecord (P : Package) (k n : Nat) : Package :=
  match [(P.sched k).occAt n (P.tick + 1), (P.sched k).occAt n P.tick].reduceOption.find? Occ.sent with
  | some o => (P.updSched k fun S => S.setOcc n o.window none).writeRecord k o (if o.sawVoid then 2 else 0)
  | none => P

def execInjectStreamRecord (p : PkgId) (k : BoleIx) (stream : Fin 1024) (s : State) : Host.Outcome State Fault Refusal :=
  .next (s.onBole p k fun _ P => P.injectRecord k stream)

/-! ### Checking a bank (R196) -/

/-- What the checks need of the router. -/
structure BankCtx where
  m : Nat
  len : Nat
  /-- Entries of this bank, and link entries of the router beside it. -/
  own : List (Nat × SEntry)
  beside : List SEntry
  deriving DecidableEq, Repr

def Package.isGraft (k o : Nat) : Bool := decide ((k % 8 = 3 ∧ o = 1) ∨ (k % 8 = 4 ∧ o = 3))

def Package.portExists (P : Package) (k o : Nat) : Bool :=
  match P.hop (P.rtrOf k) o with
  | .nowhere | .gap _ => false
  | _ => true

/-- Least SLACK of a link's entries (Table 8.4). -/
def Package.minSlack (P : Package) (e : Env) (l : Nat) : Nat := if P.linkInter e l then 1024 + 2 * (P.link l).fibre else 512

def SEntry.overlaps (x y : SEntry) : Bool := decide (x.start < y.start + y.span ∧ y.start < x.start + x.span)

/-- Does an entry break a rule of R196? -/
def Package.badEntry (P : Package) (e : Env) (k : Nat) (b : BankCtx) (i : Nat) (x : SEntry) : Bool :=
  let isLink := (linkOf k x.out).isSome
  let fromLink := decide (x.out = 4) && (linkOf k x.inp).isSome
  let g := P.guard e k x.out
  let others := (b.own.filter fun y => y.1 != i).map fun y => y.2
  let r1 := decide (4 < x.inp ∨ 4 < x.out ∨ x.inp = x.out) || !P.portExists k x.inp || !P.portExists k x.out
  let r2 := decide (b.m ≤ x.win ∨ x.pace = 3)
  let r3 := decide (x.len = 0) ||
    (decide (x.pace = 0) && (Package.isGraft k x.out || isLink)) || (decide (x.pace = 2) && Package.isGraft k x.out) ||
    (decide (x.pace = 1) && (decide (x.len % 4 ≠ 0) || ((Package.isGraft k x.out || isLink) && decide (x.start % 4 ≠ 0)))) ||
    (decide (x.pace = 2) && (decide (x.len % 24 ≠ 0) || (isLink && decide (x.start % 24 ≠ 0))))
  let r4 := decide (x.start < g ∨ b.len < x.start + x.span + g)
  let r5 := decide (x.slack ≠ 0) && !isLink && !fromLink
  let r6 := match linkOf k x.out, (if x.out = 4 then linkOf k x.inp else none) with
    | some l, _ => decide (x.slack < P.minSlack e l)
    | none, some l => decide (x.slack < P.minSlack e l)
    | none, none => false
  let r7 := (others.any fun y : SEntry => decide (y.win = x.win ∧ (y.out = x.out ∨ y.inp = x.inp)) && x.overlaps y) ||
    (isLink && b.beside.any fun y : SEntry => y.win == x.win && x.overlaps y)
  let r8 := decide (3 * (b.len - 2 * g) / 4 <
    ((((x :: others).filter fun y : SEntry => y.win == x.win && y.out == x.out).map SEntry.span).sum +
      (if isLink then ((b.beside.filter fun y : SEntry => y.win == x.win).map SEntry.span).sum else 0)))
  r1 || r2 || r3 || r4 || r5 || r6 || r7 || r8

/-- First bad entry of the standby bank. -/
def Package.bankBad (P : Package) (e : Env) (k : Nat) : Option Nat :=
  let S := P.sched k
  let b := S.standby
  let ctx : BankCtx := { m := (S.hdr b).m, len := windowCycles (S.hdr b).periodUs, own := S.bankEntries b, beside := [] }
  (ctx.own.find? fun x =>
    let beside := match linkOf k x.2.out with
      | some l => ((linkBoles l).filter (· != k)).flatMap fun k' =>
          (((P.sched k').bankEntries (P.sched k').standby).map fun y => y.2).filter fun y : SEntry => y.out == linkPort l
      | none => []
    P.badEntry e k { ctx with beside := beside } x.1 x.2).map fun x => x.1

/-! ### Loading and switching (R209 to R212, R474) -/

def Package.schedArm (P : Package) (k : Nat) : Package := P.updSched k fun S => { S with checking := some P.tick }
def Package.schedStop (P : Package) (k : Nat) : Package := P.updSched k fun S => { S with stopping := true }

/-- MODE takes a write while no bank is active (R211). -/
def Package.schedMode (P : Package) (k : Nat) (single : Bool) : Package :=
  P.updSched k fun S => if S.active = 0 then { S with single := single } else S

def execSchedArm (p : PkgId) (k : BoleIx) (s : State) : Host.Outcome State Fault Refusal :=
  .next (s.onBole p k fun _ P => P.schedArm k)

/-- The other boles whose routers share a link with bole k's. -/
def linkMates (k : Nat) : List Nat :=
  (((List.range 4).filterMap (linkOf k)).flatMap linkBoles).filter (· != k)

/-- An armed NI whose bank breaks rule 7 or 8 over the union with what its neighbour has just armed reports it as bad too
(R196). -/
def Package.bankJudge (P : Package) (e : Env) (k : Nat) : Package :=
  match P.bankBad e k with
  | some i => if (P.sched k).armed then P.updSched k fun S => { S with armed := false, badTable := true, badIdx := i } else P
  | none => P

/-- The check ends: ARMED, BADTABLE, LATE_ARM. -/
def Package.bankCheck (P : Package) (e : Env) (k : Nat) : Package :=
  let S := P.sched k
  match S.checking with
  | none => P
  | some t =>
    let bad := P.bankBad e k
    let late := decide (S.switchTick < t + 2)
    (linkMates k).foldl (fun P k' => P.bankJudge e k') (P.updSched k fun S => { S with
      checking := none
      armed := bad.isNone && !late
      badTable := S.badTable || bad.isSome
      badIdx := bad.getD S.badIdx
      lateArm := S.lateArm || late })

def execSchedBankCheck (p : PkgId) (k : BoleIx) (s : State) : Host.Outcome State Fault Refusal :=
  .next (s.onBole p k fun e P => P.bankCheck e k)

def execSchedStop (p : PkgId) (k : BoleIx) (s : State) : Host.Outcome State Fault Refusal :=
  .next (s.onBole p k fun _ P => P.schedStop k)

def execSchedModeWrite (p : PkgId) (k : BoleIx) (single : Bool) (s : State) : Host.Outcome State Fault Refusal :=
  .next (s.onBole p k fun _ P => P.schedMode k single)

/-- Occurrence counts as a bank comes into force: 1 where a read-ahead has been made for its first window. -/
def Sched.occNum0 (S : Sched) (tick : Nat) : Tab Nat :=
  S.occ.filterMap fun x => match x.2 with
    | some o => if !o.d.eject && o.window == tick then some (x.1 / 2, 1) else none
    | none => none

/-- Occurrences that outlive the bank before: those whose record is due, and those read ahead for the first window. -/
def Sched.occKept (S : Sched) (tick : Nat) : Tab (Option Occ) :=
  S.occ.filter fun x => match x.2 with
    | some o => if o.d.eject then decide (o.window < tick) else o.window == tick || o.sent
    | none => false

/-- At tick S an armed NI switches its standby bank in, or sets MISMATCH; LOST keeps any bank from becoming active. -/
def Package.bankSwitch (P : Package) (k : Nat) : Package :=
  let S := P.sched k
  if S.armed ∧ S.switchTick ≤ P.tick then
    let b := S.standby
    let off : Sched := { S with armed := false, active := 0 }
    if P.tk.lost then P.updSched k fun _ => off
    else if (S.hdr b).periodUs = P.tk.periodNow ∧ (S.hdr b).tag = P.tagOf k then
      P.updSched k fun _ => { S with armed := false, active := b, lastBank := if b = 3 then S.lastBank else b,
                                     occNum := S.occNum0 P.tick, occ := S.occKept P.tick }
    else P.updSched k fun _ => { off with mismatch := true }
  else P

def execSchedBankSwitch (p : PkgId) (k : BoleIx) (s : State) : Host.Outcome State Fault Refusal :=
  .next (s.onLive p fun P => P.bankSwitch k)

/-- Write the entry at IDX, which moves on; a write that targets the active bank is ignored and sets ACTIVE_WR. -/
def Sched.bankWrite (S : Sched) (v : BitVec 64) : Sched :=
  if bankHolds S.active S.idx then { S with activeWr := true }
  else { S with entries := S.entries.set S.idx v, idx := (S.idx + 1) % 8192 }

def execNiSchedBankWrite (p : PkgId) (k : BoleIx) (entry : BitVec 64) (s : State) : Host.Outcome State Fault Refusal :=
  .next (s.onBole p k fun _ P => P.updSched k fun S => S.bankWrite entry)

/-- A bank header from its register value (Table 8.3, Table 18.10). -/
def SchedHdr.ofValue (v : Nat) : SchedHdr :=
  { periodUs := bits v 6 0, m := bits v 12 8, entries := bits v 29 16, tag := bits v 46 32 }

def Sched.hdrWrite (S : Sched) (second : Bool) (v : Nat) : Sched :=
  let hit := if second then decide (S.active = 2) else decide (S.active = 1 ∨ S.active = 3)
  if hit then { S with activeWr := true }
  else if second then { S with hdrB := SchedHdr.ofValue v } else { S with hdrA := SchedHdr.ofValue v }

def execNiSchedHdrWrite (p : PkgId) (k : BoleIx) (second : Bool) (v : BitVec 64) (s : State) :
    Host.Outcome State Fault Refusal :=
  .next (s.onBole p k fun _ P => P.updSched k fun S => S.hdrWrite second v.toNat)

/-- At the tick (R206, R211, R212): landing buffers are emptied and counted, and a plane that was stopped runs no entry. -/
def Package.schedTick (P : Package) : Package :=
  let P1 := (List.range 72).foldl (fun P r =>
    let n := (((P.rtr r).landing.map fun x => x.2.length).sum)
    if n = 0 then P else (P.updRtr r fun R => { R with landing := [] }).count (P.eventBole r) cSCHEDUNCLAIMED n) P
  { P1 with boles := P1.boles.map fun x =>
      (x.1, if x.2.sched.stopping then { x.2 with sched := { x.2.sched with active := 0, stopping := false } } else x.2) }

/-- Flits off the links that no entry claimed are discarded at the tick too. -/
def Package.schedLinkTick (P : Package) : Package :=
  (List.range 16).foldl (fun P l =>
    let n := (P.link l).rxSched.length
    if n = 0 then P
    else (P.updLink l fun L => { L with rxSched := [] }).count ((linkBoles l).headD 0) cSCHEDUNCLAIMED n) P

end Sys2Proof.Machine
end

