-- ==== Sys2Proof/Machine/Rings.lean ====
section
/-! DEFINITION. Rings, descriptors and host reads: rows FN_NUDGE to HOST_READ_TIMEOUT but NI_WRITE (R389 to R409, R478). -/

namespace Sys2Proof.Machine

/-- An event at a function that is not in reset, in a package that runs. -/
def State.onFn (s : State) (p f : Nat) (g : Env → Package → Package) : State :=
  s.onLive p fun P => if (P.fn f).inReset then P else g (s.env p) P

/-! ### Checks of a descriptor (R394, R395) -/

/-- Bytes 8 to 63 that an opcode's fields take up (Table 15.8). -/
def opFields (op : Nat) : List Nat :=
  let r (a n : Nat) : List Nat := (List.range n).map fun i => a + i
  if op = 1 ∨ op = 2 then r 8 20
  else if op = 3 then r 16 12 ++ r 32 8
  else if op = 4 then r 8 21
  else if op = 5 then r 16 8 ++ [28] ++ r 32 16
  else if op = 6 then r 8 8 ++ [28]
  else if op = 7 then r 8 8
  else if op = 8 then r 16 8 ++ [28]
  else if op = 9 then r 16 8 ++ [28] ++ r 32 4
  else []

def opKnown (op : Nat) : Bool := decide (op ≤ 9 ∨ op = 15)
def opDaddr (op : Nat) : Bool := op == 1 || op == 2 || op == 3 || op == 4 || op == 5 || op == 8 || op == 9
def opLen (op : Nat) : Bool := op == 1 || op == 2 || op == 3

/-- Offsets of every fault of a descriptor on ring r (R394). -/
def Desc.faults (d : Desc) (r : Nat) : List Nat :=
  let byte (i : Nat) : Nat := fld d.bytes i 1
  let op := d.op
  if !opKnown op ∨ (op = 15 ∧ r ≠ 0) then [0]
  else
    (if d.flags / 4 ≠ 0 then [1] else []) ++
    (([2, 3] ++ (List.range 56).map fun i => 8 + i).filter fun i => !(opFields op).contains i && byte i != 0) ++
    (if opDaddr op then (if byte 22 / 2 ≠ 0 then [22] else []) ++ (if byte 23 ≠ 0 then [23] else []) else []) ++
    (if opLen op ∧ (d.len = 0 ∨ 16777216 < d.len) then [24] else []) ++
    (if op = 4 ∧ 2 < d.b28 then [28] else []) ++
    (if op = 5 ∧ d.loc % 4 ≠ 0 then [16] else []) ++
    (if op = 5 ∧ (d.b28 = 0 ∨ 4 < d.b28) then [28] else []) ++
    (if op = 5 then ((List.range 16).map fun i => 32 + i).filter fun i => decide (32 + 4 * d.b28 ≤ i) && byte i != 0 else []) ++
    (if op = 6 ∧ 63 < d.b28 then [28] else []) ++
    (if op = 8 ∧ 1 < d.b28 then [28] else [])

def Desc.badAt (d : Desc) (r : Nat) : Option Nat := (d.faults r).min?

/-- Is the 32-bit word at an NI control offset part of a register marked H (Table 18.10)? -/
def niHost (o : Nat) : Bool :=
  [0x0008, 0x0020, 0x0200, 0x0204, 0x0208, 0x020C, 0x0210, 0x0214, 0x0218, 0x021C, 0x0220, 0x0228, 0x022C, 0x0230,
    0x0300, 0x0304, 0x0308, 0x0880, 0x9000].contains o ||
  (decide (0x0340 ≤ o ∧ o < 0x0380) && decide (o % 32 ≤ 16)) || decide (0x0480 ≤ o ∧ o < 0x04A0) ||
  decide (0x0580 ≤ o ∧ o < 0x0600) || decide (0x2000 ≤ o ∧ o < 0x8800)

/-- Do the device addresses pass (R395, Table 15.9)? A function that is not admitted to its glade reaches no device (R68). -/
def Package.descAddrOk (P : Package) (f : Nat) (d : Desc) : Bool :=
  if f ≠ 0 ∧ (P.fn f).noGlade ∧ (opDaddr d.op ∨ d.op = 6 ∨ d.op = 7) then false
  else if d.op = 6 ∨ d.op = 7 then decide (f ≠ 0)
  else if !opDaddr d.op then true
  else
    let k := d.bole
    P.owns d.x d.y && P.boleOfFn f k && (decide (f ≠ 0) || !P.comm.oos.getLsbD k) &&
      (if opLen d.op then P.memOk k d.loc (max 1 d.len)
       else if d.op = 5 then
         decide (0x01000000 ≤ d.loc ∧ d.loc + 4 * d.b28 ≤ 0x01010000 ∧ d.loc % 64 + 4 * d.b28 ≤ 64) &&
           (List.range d.b28).all fun i => niHost ((d.loc - 0x01000000) / 4 * 4 + 4 * i)
       else if d.op = 8 then decide (d.loc < leafTop)
       else decide (d.loc = 0))

/-- Status and detail that the checks give: 0 for a descriptor that passes; the lowest number when both fail. -/
def Package.descCheck (P : Package) (f r : Nat) (d : Desc) : Nat × Nat :=
  if opKnown d.op && !P.descAddrOk f d then (1, 0)
  else match d.badAt r with
    | some a => (2, a)
    | none => (0, 0)

/-! ### Engines (R391, R397) -/

def Package.askRecord (P : Package) (f r : Nat) : Package :=
  if (P.ring f r).recOut then P.updRing f r fun R => { R with recMore := true }
  else if !P.issues f then P
  else (P.updRing f r fun R => { R with recOut := true }).askRead
    { tag := 0, fn := f, addr := (P.ring f r).dbr, len := 16, what := .record r }

/-- Fetch the next descriptors, when none is fetched and waiting. -/
def Package.fetchNext (P : Package) (f r : Nat) : Package :=
  let R := P.ring f r
  let left := subMod (2 ^ 32) R.tailSeen R.head - subMod (2 ^ 32) R.fetchPos R.head
  if R.st = .running ∧ R.fetchLen = 0 ∧ R.waiting.isEmpty ∧ left ≠ 0 ∧ P.issues f then
    let size := 2 ^ R.log2size
    let slot := R.fetchPos % size
    let a := R.base + 64 * slot
    let n := max 1 (min (min 8 (size - slot)) (min left (min ((P.fn f).mrrs / 64) ((4096 - a % 4096) / 64))))
    (P.updRing f r fun R => { R with fetchLen := n }).askRead { tag := 0, fn := f, addr := a, len := 64 * n, what := .fetch r }
  else P

/-- Host reads of a descriptor that passes: address and length. -/
def Desc.hostRange (d : Desc) : Nat × Nat :=
  if d.op = 1 ∨ d.op = 4 then (d.haddr, d.len)
  else if d.op = 6 then (d.haddr, 32)
  else if d.op = 7 then (d.haddr, 64)
  else (0, 0)

/-- May the descriptor start: room, FENCE, and no WAIT or ABORT in execution that holds the ring? -/
def Ring.mayStart (R : Ring) (d : Desc) : Bool :=
  decide (R.exec.length < 8) && (!bitAt d.flags 1 || R.head == d.n) && !R.exec.any fun x : Desc => x.op == 9 || x.op == 15

/-- Start the oldest waiting descriptor. One that fails a check, or whose fetch failed, has ended at once. -/
def Package.startOne (P : Package) (f r : Nat) : Package :=
  let R := P.ring f r
  match R.waiting with
  | [] => P
  | d :: ds =>
    if R.st ≠ .running ∨ !R.mayStart d then P
    else
      let (st, det) := if d.status ≠ 0 then (d.status, 0) else P.descCheck f r d
      let P1 := P.updRing f r fun R => { R with waiting := ds }
      if st ≠ 0 then P1.updRing f r fun R => { R with ended := R.ended ++ [{ d with status := st, detail := det }] }
      else
        let (a, len) := d.hostRange
        let cuts := splitAll (P.fn f).mrrs a len
        (P1.updRing f r fun R => { R with exec := R.exec ++ [{ d with left := cuts.length }] }).askReads
          (cuts.map fun c => { tag := 0, fn := f, addr := c.1, len := c.2, what := .data r d.n (c.1 - a) })

def Package.startN (P : Package) (f r : Nat) : Nat → Package
  | 0 => P
  | n + 1 => (P.startOne f r).startN f r n

/-- Start what may start, and fetch. -/
def Package.runRing (P : Package) (f r : Nat) : Package := (P.startN f r 8).fetchNext f r

/-- RUNNING or IDLE by HEAD and TAIL_SEEN (Table 15.5). -/
def Ring.settle (R : Ring) : Ring :=
  if R.st = .idle ∨ R.st = .running then { R with st := if R.head = R.tailSeen then .idle else .running } else R

/-! ### Doorbells -/

/-- A nudge or a rings reset is ignored, and counted (R393, R410). -/
def Package.countNudgeIgn (P : Package) (f : Nat) : Package :=
  P.updFn f fun F => { F with cntNudgeIgn := { F.cntNudgeIgn with live := sat32 F.cntNudgeIgn.live 1 } }

/-- FN_NUDGE: bit r names ring r (R393). -/
def Package.nudge (P : Package) (f v : Nat) : Package :=
  ((List.range 16).filter fun r => bitAt v r).foldl (fun P r =>
    let st := (P.ring f r).st
    if st = .idle ∨ st = .running then P.askRecord f r else P.countNudgeIgn f) P

def execFnNudge (p : PkgId) (f : FnIx) (v : BitVec 32) (s : State) : Host.Outcome State Fault Refusal :=
  .next (s.onFn p f fun _ P => P.nudge f v.toNat)

/-- The record that a read returned (R392). -/
def Package.recordIn (P : Package) (f r tail ntail : Nat) : Package :=
  let R := P.ring f r
  if R.st ≠ .idle ∧ R.st ≠ .running then P
  else if ntail + tail = 2 ^ 32 - 1 ∧ subMod (2 ^ 32) tail R.head ≤ 2 ^ R.log2size then
    (P.updRing f r fun R => ({ R with tailSeen := tail } : Ring).settle).runRing f r
  else P.updFn f fun F => { F with cntBadDb := { F.cntBadDb with live := sat32 F.cntBadDb.live 1 } }

/-- The record read of a ring has ended; a cause that arose meanwhile gives one further read. -/
def Package.recordOver (P : Package) (f r : Nat) : Package :=
  let more := (P.ring f r).recMore
  let P1 := P.updRing f r fun R => { R with recOut := false, recMore := false }
  if more then P1.askRecord f r else P1

def execDoorbellRecord (p : PkgId) (f : FnIx) (r : RingIx) (tail ntail : BitVec 32) (s : State) :
    Host.Outcome State Fault Refusal :=
  .next (s.onFn p f fun _ P => match P.readOf f (.record r) with
    | some x => (((P.endRead x.tag).recordIn f r tail.toNat ntail.toNat).recordOver f r).noteResets s.now
    | none => P)

/-! ### Fetching -/

/-- The descriptors of the outstanding fetch arrive, or fail with a status. -/
def Package.fetched (P : Package) (f r : Nat) (ds : List (List Byte)) (status : Nat) : Package :=
  let R := P.ring f r
  let new : List Desc := (List.range R.fetchLen).map fun i =>
    { n := (R.fetchPos + i) % 2 ^ 32, bytes := padTo 64 (ds.getD i []), status := status }
  (P.updRing f r fun R => { R with
    waiting := R.waiting ++ new, fetchPos := (R.fetchPos + R.fetchLen) % 2 ^ 32, fetchLen := 0 }).runRing f r

def execDescriptorFetch (p : PkgId) (f : FnIx) (r : RingIx) (ds : List (List Byte)) (s : State) :
    Host.Outcome State Fault Refusal :=
  .next (s.onFn p f fun _ P => match P.readOf f (.fetch r) with
    | some x => ((P.endRead x.tag).fetched f r ds 0).noteResets s.now
    | none => P)

/-! ### Carrying out (R396, R399, R407, R436, R478) -/

/-- A descriptor in execution has ended with this status besides what its reads gave; others may start. -/
def Package.endDesc (P : Package) (f r n status detail : Nat) : Package :=
  (P.updRing f r fun R => { R with
    exec := R.exec.filter fun d : Desc => d.n != n
    ended := R.ended ++ (R.exec.filter fun d : Desc => d.n == n).map fun d : Desc =>
      { d with status := mergeStatus d.status status, detail := if mergeStatus d.status status = 2 then detail else 0, got := [] } }).runRing f r

/-- The descriptor in execution that a row names: of its opcode, its reads ended, its ring running. -/
def Package.execDesc (P : Package) (f r n op : Nat) : Option Desc :=
  if (P.ring f r).st = .running then
    (P.ring f r).exec.find? fun d : Desc => d.n == n && d.op == op && d.left == 0
  else none

/-- Carry out a descriptor: what it does, its status and its detail. -/
def State.descRow (s : State) (p f r n op : Nat) (g : Env → Desc → Package → Package × Nat × Nat) : State :=
  s.onFn p f fun e P => match P.execDesc f r n op with
    | some d =>
      let (P1, st, det) := g e d P
      P1.endDesc f r n st det
    | none => P

/-- TARGET_RESET: the bole that a descriptor names is down, or has been reset while the descriptor ran (R399). -/
def Package.targetDown (P : Package) (d : Desc) : Bool := d.status == 3 || !P.up d.bole

def execNop (p : PkgId) (f : FnIx) (r : RingIx) (n : BitVec 32) (s : State) : Host.Outcome State Fault Refusal :=
  .next (s.descRow p f r n.toNat 0 fun _ _ P => (P, 0, 0))

/-- Poison the landing granules of a read that carried EP (R406). -/
def Package.poisonRange (P : Package) (k a n : Nat) : Package :=
  match regionOf k a n with
  | .leaf a => (granules 64 a n).foldl (fun P g => P.leafPoison k g) P
  | .heart h o => (granules 128 o n).foldl (fun P g => P.setHeart h ((P.heart h).setPoison g).1) P
  | _ => P

def Package.copyIn (P : Package) (f : Nat) (d : Desc) (ctr : Nat) : Package × Nat × Nat :=
  let st := mergeStatus d.status (mergeStatus (if P.rootRefused f d then 1 else 0) (if P.targetDown d then 3 else 0))
  if d.status = 3 then (P, st, 0)
  else if st = 3 ∨ st = 4 ∨ st = 5 then (P.landDesc f d (some ctr), st, 0)
  else
    let P1 := P.landDesc f d none
    let bad := d.got.filter fun x : Nat × List Byte × Bool => x.2.2 && P.rootOk f d.bole (d.loc + x.1) x.2.1.length
    (bad.foldl (fun P x => P.poisonRange d.bole (d.loc + x.1) x.2.1.length) P1, st, 0)

def execCopyIn (p : PkgId) (f : FnIx) (r : RingIx) (n : BitVec 32) (s : State) : Host.Outcome State Fault Refusal :=
  .next (s.bump.descRow p f r n.toNat 1 fun _ d P => P.copyIn f d s.freeCtr)

/-- Device bytes cut for Memory Writes at a host address, with the poison of the granules that they touch. -/
def Package.readPieces (P : Package) (k : Nat) : List (Nat × Nat) → List (List Byte × Bool) × Package
  | [] => ([], P)
  | (a, n) :: xs =>
    let (bs, bad, P1) := P.memRead k a n
    let (rest, P2) := P1.readPieces k xs
    ((bs, bad) :: rest, P2)

def Package.copyOut (P : Package) (f : Nat) (d : Desc) : Package × Nat × Nat :=
  if d.status = 3 then (P, 3, 0)
  else if P.rootRefused f d then (P, 1, 0)
  else if P.targetDown d then (P, 3, 0)
  else
    let cuts := (splitAll (P.fn f).mps d.haddr d.len).map fun c => (d.loc + (c.1 - d.haddr), c.2)
    let (ps, P1) := P.readPieces d.bole cuts
    (P1.writeTlps f d.haddr ps, if ps.any fun x => x.2 then 7 else 0, 0)

def execCopyOut (p : PkgId) (f : FnIx) (r : RingIx) (n : BitVec 32) (s : State) : Host.Outcome State Fault Refusal :=
  .next (s.descRow p f r n.toNat 2 fun _ d P => P.copyOut f d)

def execFill (p : PkgId) (f : FnIx) (r : RingIx) (n : BitVec 32) (s : State) : Host.Outcome State Fault Refusal :=
  .next (s.bump.descRow p f r n.toNat 3 fun _ d P =>
    let st := if P.rootRefused f d then 1 else 0
    if d.status = 3 then (P, st, 0)
    else if P.targetDown d then (P.landDesc f d (some s.freeCtr), mergeStatus st 3, 0) else (P.landDesc f d none, st, 0))

/-- What the reads of an image returned, in order. -/
def Desc.image (d : Desc) : List Byte :=
  d.got.foldl (fun acc x => padTo (max acc.length (x.1 + x.2.1.length)) (padTo x.1 acc ++ x.2.1 ++ acc.drop (x.1 + x.2.1.length))) []

/-- SCHED_LOAD: the header, the entries from the bank's first on, and V = 0 in the rest of the bank (R478). Banks are
numbered as ACTIVE numbers them: 1 A, 2 B, 3 single. -/
def Sched.load (S : Sched) (bank : Nat) (img : List Byte) : Sched :=
  let n := (SchedHdr.ofValue (fld img 0 8)).entries
  let hdr := SchedHdr.ofValue (fld img 0 8)
  let kept := S.entries.filter fun x => !bankHolds bank x.1
  let new := (List.range n).map fun i => (bankBase bank + i, BitVec.ofNat 64 (fld img (16 + 8 * i) 8))
  { S with
    hdrA := if bank = 2 then S.hdrA else hdr
    hdrB := if bank = 2 then hdr else S.hdrB
    entries := (kept.filter fun x => decide (x.1 < bankBase bank)) ++ new ++ kept.filter fun x => decide (bankBase bank ≤ x.1) }

/-- Does a bank hold an entry of the active one (R396)? -/
def Sched.bankActive (S : Sched) (bank : Nat) : Bool :=
  decide (S.active ≠ 0) && (S.active == bank || S.active == 3 || bank == 3)

def Package.schedLoad (P : Package) (d : Desc) : Package × Nat × Nat :=
  let img := d.image
  let bank := d.b28 + 1
  let n := (SchedHdr.ofValue (fld img 0 8)).entries
  if d.status ≠ 0 then (P, 0, 0)
  else if d.len ≠ 16 + 8 * n ∨ bankLen bank < n then (P, 2, 24)
  else if P.targetDown d then (P, 3, 0)
  else if (P.sched d.bole).bankActive bank then (P, 8, 0)
  else (P.updSched d.bole fun S => S.load bank img, 0, 0)

def execSchedLoad (p : PkgId) (f : FnIx) (r : RingIx) (n : BitVec 32) (s : State) : Host.Outcome State Fault Refusal :=
  .next (s.descRow p f r n.toNat 4 fun _ d P => P.schedLoad d)

/-- Members on this package of the group that a record describes, in ascending member index (R396). -/
def Package.groupMembers (P : Package) (f : Nat) (G : Nat → Group) : List Nat :=
  let ks := (P.scope f).filter fun k => let (x, y) := P.here k; P.up k && ((G k).inst x y).has x y
  ks.mergeSort fun a b =>
    decide (((G a).inst (P.boleX a) (P.boleY a)).index (P.boleX a) (P.boleY a) ≤
      ((G b).inst (P.boleX b) (P.boleY b)).index (P.boleX b) (P.boleY b))

def Package.collGroup (P : Package) (f : Nat) (d : Desc) : Package × Nat × Nat :=
  if d.status ≠ 0 then (P, 0, 0)
  else
    let v := leNat (padTo 32 d.image)
    let G : Group := ({} : Group).write v
    ((P.groupMembers f fun _ => G).foldl (fun P k => P.updColl k fun c => c.writeGroup d.b28 v) P, 0, 0)

def execCollGroup (p : PkgId) (f : FnIx) (r : RingIx) (n : BitVec 32) (s : State) : Host.Outcome State Fault Refusal :=
  .next (s.descRow p f r n.toNat 6 fun _ d P => P.collGroup f d)

def Package.collLaunch (P : Package) (e : Env) (f : Nat) (d : Desc) : Package × Nat × Nat :=
  if d.status ≠ 0 then (P, 0, 0)
  else
    let g := fld d.image 1 1 % 64
    ((P.groupMembers f fun k => (P.coll k).group g).foldl (fun P k => P.launch e k d.image false) P, 0, 0)

def execCollLaunch (p : PkgId) (f : FnIx) (r : RingIx) (n : BitVec 32) (s : State) : Host.Outcome State Fault Refusal :=
  .next (s.descRow p f r n.toNat 7 fun e d P => P.collLaunch e f d)

/-- BOLE_RUN with ACTION start or stop. -/
def Package.boleRun (P : Package) (d : Desc) : Package × Nat × Nat :=
  if P.targetDown d then (P, 3, 0)
  else if P.tok.bringup then (P, 8, 0)
  else if d.b28 = 0 then (P.updBole d.bole fun b => { b with running := true, entry := d.loc }, 0, 0)
  else (P.halt d.bole, 0, 0)

/-- The row of one ACTION carries out that ACTION alone. -/
def State.boleRunRow (s : State) (p f r n action : Nat) : State :=
  match ((s.pkg p).execDesc f r n 8) with
  | some d => if d.b28 = action then s.descRow p f r n 8 fun _ d P => P.boleRun d else s
  | none => s

def execBoleRunStart (p : PkgId) (f : FnIx) (r : RingIx) (n : BitVec 32) (s : State) : Host.Outcome State Fault Refusal :=
  .next (s.boleRunRow p f r n.toNat 0)

def execBoleRunStop (p : PkgId) (f : FnIx) (r : RingIx) (n : BitVec 32) (s : State) : Host.Outcome State Fault Refusal :=
  .next (s.boleRunRow p f r n.toNat 1)

/-- WAIT ends once the counter meets THRESH, or its bole is reset. -/
def execWait (p : PkgId) (f : FnIx) (r : RingIx) (n : BitVec 32) (s : State) : Host.Outcome State Fault Refusal :=
  .next (s.onFn p f fun _ P => match P.execDesc f r n.toNat 9 with
    | some d =>
      if P.targetDown d then P.endDesc f r n.toNat 3 0
      else if fld d.bytes 32 4 ≤ (P.coll d.bole).ctr.get 0 d.b28 then P.endDesc f r n.toNat 0 0
      else P
    | none => P)

/-- ABORT on ring 0: the descriptor ends with OK and acts as FN_ABORT with GLADE 1 (R408). -/
def execAbort (p : PkgId) (f : FnIx) (r : RingIx) (n : BitVec 32) (s : State) : Host.Outcome State Fault Refusal :=
  let P := s.pkg p
  if P.live && !(P.fn f).inReset && (P.execDesc f r n.toNat 15).isSome then
    .next ((s.updPkg p fun P => P.endDesc f r n.toNat 0 0).askAbort p f)
  else .next s

/-! ### Completion (R398, R400) -/

/-- Bytes of a completion entry (Table 15.10). -/
def Desc.entry (d : Desc) (tick : Nat) : List Byte :=
  leBytes 4 d.n ++ leBytes 1 d.status ++ leBytes 1 d.op ++ leBytes 2 d.detail ++ (d.bytes.drop 4).take 4 ++ leBytes 4 tick

/-- Issue the entry of the descriptor at HEAD: bytes 8 to 15, then bytes 0 to 7; then HEAD advances and the cause rises. -/
def Package.issueEntry (P : Package) (f r : Nat) (d : Desc) : Package :=
  let R := P.ring f r
  let a := R.cq + 16 * (d.n % 2 ^ R.log2size)
  let b := d.entry (P.tick % 2 ^ 32)
  let P1 := P.updRt fun t => { t with tlps := t.tlps ++
    [.memWr f (a + 8) (b.drop 8) false false, .memWr f a (b.take 8) false false] }
  let P2 := P1.updRing f r fun R => { R with head := (d.n + 1) % 2 ^ 32, ended := R.ended.filter fun x : Desc => x.n != d.n }
  if bitAt d.flags 0 then P2.setRingLeaf f r else P2

def Ring.next (R : Ring) : Option Desc := R.ended.find? fun d : Desc => d.n == R.head

/-- The chase read (R391). -/
def Package.chase (P : Package) (f r : Nat) : Package :=
  if (P.ring f r).st = .idle then P.askRecord f r else P

def execDescriptorComplete (p : PkgId) (f : FnIx) (r : RingIx) (s : State) : Host.Outcome State Fault Refusal :=
  .next (s.onFn p f fun _ P =>
    match (P.ring f r).next with
    | some d =>
      if (P.ring f r).st = .running ∧ P.issues f then
        let P1 := (P.issueEntry f r d).updRing f r Ring.settle
        (P1.chase f r).runRing f r
      else P
    | none => P)

/-! ### Reads that end (R406, Table 15.12) -/

/-- Status that a failed read gives a descriptor. -/
def failStatus : Option CplStatus → Nat
  | none => 4
  | some .ok => 0
  | some .ep => 6
  | some _ => 5

/-- A data read of a descriptor has ended. -/
def Package.dataIn (P : Package) (f r n off len : Nat) (st : Option CplStatus) (data : List Byte) : Package :=
  let keep := decide (st = some .ok ∨ st = some .ep)
  P.updRing f r fun R => { R with exec := R.exec.map fun d : Desc =>
    if d.n = n then { d with left := d.left - 1
                             status := mergeStatus d.status (failStatus st)
                             got := if keep then d.got ++ [(off, padTo len data, decide (st = some .ep))] else d.got } else d }

/-- A ring reset's own record read has ended: HEAD and TAIL_SEEN take TAIL where it is good, and HEAD takes TAIL_SEEN where
it is not (R409, R429). -/
def Package.resetRead (P : Package) (f r : Nat) (tail : Option Nat) : Package :=
  P.updRing f r fun R =>
    let h := tail.getD R.tailSeen
    { R with head := h, tailSeen := h, fetchPos := h, rstOut := false, rstAt := none
             st := if (P.fn f).master then .idle else .quiesced }

/-- The abort is done once step 5 has been carried out and every ring has left STOPPED (R430). -/
def Package.abortCheck (P : Package) (f : Nat) : Package :=
  let A := (P.fn f).abort
  if A.state = 1 && A.collDone && !(P.fn f).inReset && (List.range 16).all fun r => (P.ring f r).st ≠ .stopped then
    ((P.freeScope f).updFn f fun F => { F with abort := { F.abort with state := 2 } }).setFuncLeaf f fnAbortDone
  else P

/-- The end of a read with this tag: none for a timeout. -/
def Package.readEnds (P : Package) (x : HostRead) (st : Option CplStatus) (data : List Byte) (ctr : Nat) : Package :=
  match x.what with
  | .record r =>
    let P1 := P.endRead x.tag
    let P2 := if st = some .ok then P1.recordIn x.fn r (fld data 0 4) (fld data 4 4) else P1
    P2.recordOver x.fn r
  | .resetRecord r =>
    let good := decide (st = some .ok ∧ fld data 0 4 + fld data 4 4 = 2 ^ 32 - 1)
    ((P.endRead x.tag).resetRead x.fn r (if good then some (fld data 0 4) else none)).abortCheck x.fn
  | .fetch r =>
    let lost := leBytes 8 (Config.lostDesc ctr)
    let ds := if st = some .ok ∨ st = some .ep then (List.range 8).map fun i => (data.drop (64 * i)).take 64
      else List.replicate 8 lost
    (P.endRead x.tag).fetched x.fn r ds (failStatus st)
  | .data r n off => ((P.endRead x.tag).dataIn x.fn r n off x.len st data)
  | .overflow k op leaf => match st with
    | some c => P.ovfDone x k op leaf c data
    | none => (P.endRead x.tag).ovfFault x k op fcOvfTimeout
  | .stale => P.endRead x.tag

def execHostReadCompletion (p : PkgId) (tag : Nat) (status : CplStatus) (data : List Byte) (s : State) :
    Host.Outcome State Fault Refusal :=
  .next (s.bump.onLive p fun P => match P.readTagged tag with
    | some x => (((P.hostError x.fn (some status)).readEnds x (some status) data s.freeCtr)).noteResets s.now
    | none => P.lateCpl)

def execHostReadTimeout (p : PkgId) (tag : Nat) (s : State) : Host.Outcome State Fault Refusal :=
  .next (s.bump.onLive p fun P => match P.readTagged tag with
    | some x => ((P.hostError x.fn none).readEnds x none [] s.freeCtr).noteResets s.now
    | none => P)

end Sys2Proof.Machine
end

