-- ==== Sys2Proof/Machine/Abort.lean ====
section
/-! DEFINITION. Aborts and ring resets: rows FN_ABORT_GLADE to ABORT_ESCALATE (R408 to R410, R426 to R431). -/

namespace Sys2Proof.Machine

/-- An event at a function that is not in reset, told of the whole state. -/
def State.atFn (s : State) (p f : Nat) (g : State → State) : State :=
  if (s.pkg p).live && !((s.pkg p).fn f).inReset then g s else s

/-! ### Starts -/

/-- FN_ABORT with GLADE 1 (R426). -/
def State.abortGlade (s : State) (p f : Nat) : State := s.atFn p f fun s => s.askAbort p f

def execFnAbortGlade (p : PkgId) (f : FnIx) (s : State) : Host.Outcome State Fault Refusal :=
  .next (s.abortGlade p f)

/-- RT_VF_ABORT: bit v - 1 starts the abort of VF v (R469). -/
def State.vfAborts (s : State) (p : Nat) (vfs : BitVec 16) : State :=
  ((List.range 16).filter fun i => vfs.getLsbD i).foldl (fun s i => s.abortGlade p (i + 1)) s

def execRtVfAbort (p : PkgId) (vfs : BitVec 16) (s : State) : Host.Outcome State Fault Refusal :=
  .next (s.vfAborts p vfs)

/-- Every ring of the function stops, and its reset is due. -/
def Package.resetRings (P : Package) (f ctr : Nat) : Package :=
  (P.ringsOf f).foldl (fun P r => (P.stopRing f r ctr .stopped).updRing f r fun R => { R with rstDue := true }) P

/-- FN_ABORT with RINGS 1; ignored and counted while Bus Master Enable is clear (R408, R410). -/
def State.abortRings (s : State) (p f : Nat) : State :=
  s.bump.onFn p f fun _ P => if (P.fn f).master then P.resetRings f s.freeCtr else P.countNudgeIgn f

def execFnAbortRings (p : PkgId) (f : FnIx) (s : State) : Host.Outcome State Fault Refusal :=
  .next (s.abortRings p f)

/-! ### The ring reset (R409, R429) -/

/-- Issue the entries of the ended descriptors, in order, from HEAD on. -/
def Package.issueAll (P : Package) (f r : Nat) : Nat → Package
  | 0 => P
  | n + 1 => match (P.ring f r).next with
    | some d => (P.issueEntry f r d).issueAll f r n
    | none => P

/-- The engine's books of a ring: what was fetched and not ended goes. -/
def Ring.emptied (R : Ring) : Ring :=
  { R with waiting := [], exec := [], ended := [], recOut := false, recMore := false, fetchLen := 0, rstDue := false }

/-- The ring reset after its stop: entries, and one read of the record; QUIESCED-BME while Bus Master Enable is clear. -/
def Package.ringReset (P : Package) (f r : Nat) : Package :=
  let R := P.ring f r
  if R.st = .stopped ∧ R.rstDue then
    if (P.fn f).master then
      let P1 := ((P.issueAll f r R.ended.length).staleReads f r).updRing f r fun R => { R.emptied with rstOut := true, rstAt := none }
      P1.askRead { tag := 0, fn := f, addr := R.dbr, len := 16, what := .resetRecord r }
    else
      ((P.staleReads f r).updRing f r fun R => { R.emptied with st := .quiesced }).abortCheck f
  else P

def execRingReset (p : PkgId) (f : FnIx) (r : RingIx) (s : State) : Host.Outcome State Fault Refusal :=
  .next (s.onFn p f fun _ P => (P.ringReset f r).noteResets s.now)

def execRingResetReadDone (p : PkgId) (f : FnIx) (r : RingIx) (tail ntail : BitVec 32) (s : State) :
    Host.Outcome State Fault Refusal :=
  .next (s.onFn p f fun _ P => match P.readOf f (.resetRecord r) with
    | some x =>
      let t := if tail.toNat + ntail.toNat = 2 ^ 32 - 1 then some tail.toNat else none
      (((P.endRead x.tag).resetRead f r t).abortCheck f).noteResets s.now
    | none => P)

/-- Has the read been outstanding for one tick period, the one in force when it was issued (R7, R429)? -/
def Ring.resetLate (R : Ring) (now : Nat) : Bool :=
  match R.rstAt with
  | some t => decide (t + windowCycles R.rstPeriod ≤ now)
  | none => false

/-- The read has failed, or it is late and a completion that still comes finds nothing waiting. -/
def execRingResetReadTimeout (p : PkgId) (f : FnIx) (r : RingIx) (s : State) (failed : Bool := false) :
    Host.Outcome State Fault Refusal :=
  .next (s.onFn p f fun _ P =>
    if (P.ring f r).rstOut && (failed || (P.ring f r).resetLate s.now) then
      ((P.staleReads f r).resetRead f r none).abortCheck f
    else P)

/-! ### Step 5 and escalation (R428, R431) -/

/-- Step 5 at tick a + 3: collectives end; then the ring resets are due, or the function reset that ran the abort clears
the function (R420, R424). -/
def Package.abortEnd (P : Package) (e : Env) (f ctr : Nat) : Package :=
  let A := (P.fn f).abort
  if A.state = 1 ∧ A.collDone = false ∧ A.startTick + 3 ≤ P.tick then
    let P1 := (P.endColls e f).updFn f fun F => { F with abort := { F.abort with collDone := true } }
    if (P.fn f).inReset then P1.clearFn f else (P1.resetRings f ctr).abortCheck f
  else P

def execAbortCollectivesEnd (p : PkgId) (f : FnIx) (s : State) : Host.Outcome State Fault Refusal :=
  .next (s.bump.onLive p fun P => P.abortEnd (s.env p) f s.freeCtr)

/-- The bound of R430, 25 tick periods of the start, has passed: an abort that ends at the bound meets it (R7). -/
def AbortSt.tooLong (A : AbortSt) (now : Nat) : Bool :=
  decide (A.state = 1) && decide (A.startAt + 25 * windowCycles A.startPeriod < now)

def execAbortEscalate (p : PkgId) (f : FnIx) (unconfirmed : BitVec 64) (s : State) : Host.Outcome State Fault Refusal :=
  .next (s.atFn p f fun s =>
    if ((s.pkg p).fn f).abort.tooLong s.now then s.escalate p f unconfirmed else s)

end Sys2Proof.Machine
end

