-- ==== Sys2Proof/Machine/CheckValue.lean ====
section
/-! DEFINITION. Check-value units: rows CV_WRITE to CV_WATCH_EXPIRE (R272 to R286). -/

namespace Sys2Proof.Machine

/-! ### Registers (Table 11.1, Table 11.2) -/

def cvW (c : Cv) : Nat := bits c.cfg 5 0 + 1
def cvMask (c : Cv) (v : Nat) : Nat := v % 2 ^ cvW c
/-- Bits of CV_CFG that hold a value. -/
def cvCfgMask : Nat := 0xFF031F3F

/-- One byte fed (R275). -/
def Cv.feed (c : Cv) (b : Nat) : Cv :=
  let b1 := if bitAt c.cfg 8 then reflect 8 b else b
  { c with state := crcByte (cvW c) (cvMask c c.poly) c.state (BitVec.ofNat 8 b1) }

def Cv.feedAll (c : Cv) (bs : List Nat) : Cv := bs.foldl Cv.feed c

/-- CV_RESULT. -/
def Cv.result (c : Cv) : Nat :=
  cvMask c ((if bitAt c.cfg 9 then reflect (cvW c) c.state else c.state) ^^^ c.xorout)

/-- Bytes of a data write in the order they feed (R276). -/
def Cv.order (c : Cv) (n v : Nat) : List Nat :=
  let bs := (List.range n).map fun i => v / 256 ^ i % 256
  if bitAt c.cfg 10 then bs.reverse else bs

def Cv.data (c : Cv) (n v : Nat) : Cv :=
  let c1 := c.feedAll (c.order n v)
  { c1 with bytes := sat32 c1.bytes n }

/-- The alive bytes that START and CLOSE end by feeding (R277). -/
def Cv.aliveFeed (c : Cv) : Cv :=
  if bitAt c.cfg 11 then c.feedAll [c.alive % 256, c.alive / 256 % 256] else c

def Cv.start (c : Cv) : Cv := ({ c with state := cvMask c c.init, bytes := 0 } : Cv).aliveFeed

def orBit (w i : Nat) : Nat := w ||| 2 ^ i

/-- CV_CLOSE, and whether it sets MISMATCH, which each failed comparison does (R277). -/
def Cv.close (c : Cv) : Cv × Bool :=
  let latched := c.result
  let bad := bitAt c.cfg 12 && latched != cvMask c c.expect
  let good := bitAt c.cfg 12 && !bad
  (({ c with
      latched := latched
      cntMatch := if good then sat16 c.cntMatch 1 else c.cntMatch
      cntMismatch := if bad then sat16 c.cntMismatch 1 else c.cntMismatch
      status := if bad then orBit c.status 0 else c.status
      alive := (c.alive + 1) % 65536
      watch := 0
      state := cvMask c c.init
      bytes := 0 } : Cv).aliveFeed, bad)

/-! ### Input FIFO (R279, R283) -/

/-- Is there a register at an offset? The table's 8-bit and 16-bit registers take their own bytes alone. -/
def cvIsReg (off : Nat) : Bool :=
  decide (off < 0x04 ∨ (0x08 ≤ off ∧ off < 0x49) ∨ (0x4C ≤ off ∧ off < 0x4E) ∨ (0x50 ≤ off ∧ off < 0x6C))

/-- Is an access of this width in bits, from this offset on, one that the register there takes (R274, R283)? -/
def cvWidthOk (off w : Nat) : Bool :=
  if off = 0x48 then w == 8
  else if off = 0x4C then w == 16
  else if 0x08 ≤ off ∧ off < 0x40 then (off % 8 == 0 && (w == 64 || w == 32)) || (off % 8 == 4 && w == 32)
  else off % 4 == 0 && w == 32

/-- A read of a width that its register does not take is refused; the write only registers read 0 at any width (R283). -/
def cvReadBad (off w : Nat) : Bool := cvIsReg off && !cvWidthOk off w && !decide (0x40 ≤ off ∧ off < 0x54)

def Cv.sizeErr (c : Cv) : Cv := { c with status := orBit c.status 2 }

def cvDepth (c : Cv) : Nat := min 4 c.fifo.length

/-- CV_STATUS as it reads. -/
def cvStatus (c : Cv) : Nat := c.status % 8 + (if c.fifo.isEmpty then 0 else 8) + 16 * cvDepth c

/-- An entry enters the FIFO. -/
def Cv.enter (c : Cv) (off w v : Nat) : Cv :=
  { c with fifo := c.fifo ++ [(off, w, v % 2 ^ w)], notEmpty := c.notEmpty + (if c.fifo.isEmpty then 1 else 0) }

/-- The head has left the FIFO (R188). -/
def Cv.leave (c : Cv) : Cv :=
  { c with fifo := c.fifo.drop 1, notFull := c.notFull + (if 4 ≤ c.fifo.length then 1 else 0) }

/-! ### Carrying out an entry (R277, R278, R285) -/

/-- What the engine takes an entry for. -/
inductive CvKind | start | close | din8 | din16 | din32 | state | alive | param
  deriving DecidableEq, Repr

def cvKind (off : Nat) : CvKind :=
  if off = 0x40 then .start
  else if off = 0x44 then .close
  else if off = 0x48 then .din8
  else if off = 0x4C then .din16
  else if off = 0x50 then .din32
  else if off = 0x20 ∨ off = 0x24 then .state
  else if off = 0x54 then .alive
  else .param

/-- A 64-bit register after a write of one half or of all of it. -/
def cvPart (old off w v : Nat) : Nat :=
  if w = 64 then v
  else if off % 8 = 0 then old / 2 ^ 32 * 2 ^ 32 + v % 2 ^ 32
  else old % 2 ^ 32 + v % 2 ^ 32 * 2 ^ 32

/-- A write of a register that is neither state, alive nor a data or message register: parameters (R278), CV_EXPECT,
CV_STATUS; the rest are read only. -/
def Cv.param (c : Cv) (off w v : Nat) : Cv :=
  if off = 0 then
    let c1 : Cv := { c with cfg := v &&& cvCfgMask }
    { c1 with state := cvMask c1 c.state }
  else if off = 0x08 ∨ off = 0x0C then { c with poly := cvPart c.poly off w v }
  else if off = 0x10 ∨ off = 0x14 then { c with init := cvPart c.init off w v }
  else if off = 0x18 ∨ off = 0x1C then { c with xorout := cvPart c.xorout off w v }
  else if off = 0x30 ∨ off = 0x34 then { c with expect := cvPart c.expect off w v }
  else if off = 0x58 then { c with status := c.status &&& (7 - v % 8) }
  else c

/-- The unit after an entry, and the causes that it raises: mismatch, stalled. -/
def Cv.run (c : Cv) (off w v : Nat) : Cv × Bool × Bool :=
  match cvKind off with
  | .start => (c.start, false, false)
  | .close =>
    let (c1, m) := c.close
    (c1, m && bitAt c.cfg 16, false)
  | .din8 => (c.data 1 v, false, false)
  | .din16 => (c.data 2 v, false, false)
  | .din32 => (c.data 4 v, false, false)
  | .state => ({ c with state := cvMask c (cvPart c.state off w v) }, false, false)
  | .alive => ({ c with alive := v % 65536 }, false, false)
  | .param =>
    let rise (i : Nat) : Bool := off == 0 && !bitAt c.cfg i && bitAt v i
    (c.param off w v, rise 16 && bitAt c.status 0, rise 17 && bitAt c.status 1)

def Package.cvRaise (P : Package) (u : CvUnit) (mism stalled : Bool) : Package :=
  match u with
  | .bole k =>
    let P1 := if mism then P.setBoleLeaf k bcMismatch else P
    if stalled then P1.setBoleLeaf k bcStalled else P1
  | .root f =>
    let P1 := if mism then P.setFuncLeaf f fnCvMismatch else P
    if stalled then P1.setFuncLeaf f fnCvStalled else P1

/-- The engine carries out the head of the FIFO. -/
def Package.cvNext (P : Package) (u : CvUnit) : Package :=
  match (P.cvOf u).fifo with
  | (off, w, v) :: _ =>
    let (c, m, st) := (P.cvOf u).leave.run off w v
    (P.updCv u fun _ => c).cvRaise u m st
  | [] => P

/-- The engine carries out the head of the FIFO, when it is an entry of this kind. -/
def Package.cvHead (P : Package) (u : CvUnit) (kind : CvKind) : Package :=
  match (P.cvOf u).fifo with
  | (off, _, _) :: _ => if cvKind off = kind then P.cvNext u else P
  | [] => P

/-- Carry out every entry: what a read of the unit waits for (R282). -/
def Package.cvDrainN (P : Package) (u : CvUnit) : Nat → Package
  | 0 => P
  | n + 1 => (P.cvNext u).cvDrainN u n
def Package.cvDrain (P : Package) (u : CvUnit) : Package := P.cvDrainN u (P.cvOf u).fifo.length

/-- A store reaches the unit: one of a wrong width is refused (R283). One that finds the FIFO full stalls its sender until the
engine has carried out the head, and enters in the cycle in which that leaves, without a not-full event (R186, R281; DEDUCED,
log 33: the row stands for the store's end). -/
def Package.cvPut (P : Package) (u : CvUnit) (off w v : Nat) : Package :=
  if !cvIsReg off then P
  else if !cvWidthOk off w then P.updCv u Cv.sizeErr
  else if (P.cvOf u).fifo.length < 4 then P.updCv u fun c => c.enter off w v
  else (P.cvNext u).updCv u fun c => { c.enter off w v with notFull := c.notFull - 1 }

/-- Is the unit out of reset? -/
def Package.cvLive (P : Package) (u : CvUnit) : Bool :=
  match u with
  | .bole k => P.up k
  | .root f => !(P.fn f).inReset

/-- May software reach the unit: the bole's own running program (R272), or the function's driver over PCIe (R273)? -/
def Package.cvReach (P : Package) (u : CvUnit) : Bool :=
  P.cvLive u && (match u with
    | .bole k => (P.bole k).running
    | .root _ => P.rt.linkUp)

def State.onCv (s : State) (p : Nat) (u : CvUnit) (f : Package → Package) : State :=
  if (s.pkg p).live && (s.pkg p).cvLive u then s.updPkg p f else s

def execCvWrite (p : PkgId) (u : CvUnit) (offset width : Nat) (v : BitVec 64) (s : State) : Host.Outcome State Fault Refusal :=
  .next (s.onLive p fun P => if P.cvReach u then P.cvPut u offset width v.toNat else P)

def execCvStart (p : PkgId) (u : CvUnit) (s : State) : Host.Outcome State Fault Refusal :=
  .next (s.onCv p u fun P => P.cvHead u .start)

def execCvDin8 (p : PkgId) (u : CvUnit) (s : State) : Host.Outcome State Fault Refusal :=
  .next (s.onCv p u fun P => P.cvHead u .din8)

def execCvDin16 (p : PkgId) (u : CvUnit) (s : State) : Host.Outcome State Fault Refusal :=
  .next (s.onCv p u fun P => P.cvHead u .din16)

def execCvDin32 (p : PkgId) (u : CvUnit) (s : State) : Host.Outcome State Fault Refusal :=
  .next (s.onCv p u fun P => P.cvHead u .din32)

def execCvClose (p : PkgId) (u : CvUnit) (s : State) : Host.Outcome State Fault Refusal :=
  .next (s.onCv p u fun P => P.cvHead u .close)

def execCvParamWrite (p : PkgId) (u : CvUnit) (s : State) : Host.Outcome State Fault Refusal :=
  .next (s.onCv p u fun P => P.cvHead u .param)

def execCvStateWrite (p : PkgId) (u : CvUnit) (s : State) : Host.Outcome State Fault Refusal :=
  .next (s.onCv p u fun P => P.cvHead u .state)

def execCvAliveWrite (p : PkgId) (u : CvUnit) (s : State) : Host.Outcome State Fault Refusal :=
  .next (s.onCv p u fun P => P.cvHead u .alive)

/-- One tick at a unit (R284). -/
def Cv.tick (c : Cv) : Cv :=
  let n := min 255 (c.watch + 1)
  { c with watch := n, due := decide (n ≠ c.watch ∧ n = bits c.cfg 31 24) }

def execCvWatchExpire (p : PkgId) (u : CvUnit) (s : State) : Host.Outcome State Fault Refusal :=
  .next (s.onCv p u fun P =>
    let c := P.cvOf u
    if c.due then
      (P.updCv u fun c => { c with due := false, status := orBit c.status 1 }).cvRaise u false (bitAt c.cfg 17)
    else P)

end Sys2Proof.Machine
end

