-- ==== Sys2Proof/Machine/Expiry.lean ====
section
/-! DEFINITION. Expired flits: row FLIT_EXPIRY (R175 to R178, R360, R494). -/

namespace Sys2Proof.Machine

/-- Take the expired flits off the front of a buffer: the heads among them, and what is left. -/
def dropExpired (tick : Nat) : List Flit → List Head × List Flit
  | [] => ([], [])
  | f :: fs =>
    if expired tick f.age then
      let (hs, r) := dropExpired tick fs
      (match f.hdr with | .head h => h :: hs | .follow _ => hs, r)
    else ([], f :: fs)

/-- The same over every buffer of a table. -/
def dropTab (tick : Nat) (t : Tab (List Flit)) : List Head × Tab (List Flit) :=
  ((t.map fun x => (dropExpired tick x.2).1).flatten, t.map fun x => (x.1, (dropExpired tick x.2).2))

/-- A multicast buffer: an expired flit goes whatever branches it still owed. -/
def dropHeld (tick : Nat) : List (Flit × List Nat) → List Head × List (Flit × List Nat)
  | [] => ([], [])
  | x :: xs =>
    if expired tick x.1.age then
      let (hs, r) := dropHeld tick xs
      (match x.1.hdr with | .head h => h :: hs | .follow _ => hs, r)
    else ([], x :: xs)

/-- Release what expired packets hold: output channels, and the packets open at the inputs (R176). -/
def Router.release (R : Router) (tick : Nat) : Router :=
  let goneOut (key : Nat) : Bool := decide (R.holdAge.get 0 key ≠ 0) && expired tick (R.holdAge.get 0 key - 1)
  let shut (c : Chk) : Chk := if expired tick c.age then {} else c
  { R with holder := R.holder.map fun x => (x.1, if goneOut x.1 then 0 else x.2)
           holdAge := R.holdAge.map fun x => (x.1, if goneOut x.1 then 0 else x.2)
           chk := R.chk.map fun x => (x.1, shut x.2)
           arr := R.arr.map fun x => (x.1, shut x.2)
           brChk := R.brChk.map fun x => (x.1, shut x.2)
           mopen := R.mopen.map fun x => (x.1, if x.2 ≠ 0 ∧ expired tick (x.2 - 1) then 0 else x.2) }

/-- Discard expired flits at the heads of a router's buffers. -/
def Router.expire (R : Router) (tick : Nat) (graft : Nat → Bool) : List Head × Router :=
  let R1 := R.release tick
  let (h1, buf) := dropTab tick R1.buf
  let (h2, det) := dropTab tick R1.detour
  let (h3, com) := dropTab tick R1.comOut
  (h1 ++ h2 ++ h3 ++ (R1.mbuf.map fun x => (dropHeld tick x.2).1).flatten,
    { R1 with
        buf := buf, detour := det, comOut := com
        off := buf.map fun x => (x.1, bufOff (graft (x.1 / 8)) (R1.off.get false x.1) x.2.length)
        detOff := det.map fun x => (x.1, bufOff false (R1.detOff.get false x.1) x.2.length)
        mbuf := R1.mbuf.map fun x => (x.1, (dropHeld tick x.2).2) })

def Package.expireHeads (P : Package) (r : Nat) (hs : List Head) : Package := hs.foldl (fun P h => P.expireHead r h) P

def Package.expireRtr (P : Package) (r : Nat) : Package :=
  let (hs, R) := (P.rtr r).expire P.tick (P.graftIn r)
  (P.updRtr r fun _ => R).expireHeads r hs

/-- The NI: a packet that it has gathered in part, and expired flits at the heads of its ejection buffers (R178). -/
def Ni.expireAll (n : Ni) (tick : Nat) : Ni :=
  let gone (x : RxPkt) : Bool := !x.whole && (match x.flits with | f :: _ => expired tick f.age | [] => false)
  let (hs, ej) := dropTab tick n.ej
  let k := (n.rx.filter gone).length + hs.length
  (({ n with rx := n.rx.filter fun x : RxPkt => !gone x, ej := ej } : Ni).count cPARTIAL k).landAll

/-- A link's egress buffers: heads are counted in LK_CNT_EXPIRED, and an expired packet's channel is free again. -/
def Link.expireEgress (L : Link) (tick now : Nat) : Link :=
  let (hs, eg) := dropTab tick L.eg
  let L1 := ({ L with eg := eg } : Link).count lkEXPIRED hs.length
  let L2 := (List.range 8).foldl (fun L ch =>
    if L.egOpen.get false ch && expired tick (L.egAge.get 0 ch) then L.closeCh ch else L) L1
  let L3 := (List.range 16).foldl (fun (L : Link) key => L.egState key) L2
  (List.range 8).foldl (fun (L : Link) ch =>
    let L4 : Link := if (L.eg.get [] ch).isEmpty && (L.eg.get [] (8 + ch)).isEmpty then { L with headAt := L.headAt.set ch 0 } else L
    (L4.markHead ch now).sampleVc ch now) L3

/-- A link's receive regions follow R176 as router buffers do (R360): heads go to the router that they were for. -/
def Package.expireRegion (P : Package) (l : Nat) : Package :=
  let (hs, rx) := dropTab P.tick (P.link l).rx
  hs.foldl (fun P h => P.expireHead (P.rtrOf ((linkBoles l).getD (lineSide l h) 0)) h)
    (P.updLink l fun L => ({ L with rx := rx } : Link).rxSample)

def Package.flitExpiry (P : Package) (e : Env) : Package :=
  let P1 := (P.rtrs.map fun x => x.1).foldl Package.expireRtr P
  let P2 := (P1.links.map fun x => x.1).foldl (fun P l =>
    (P.updLinkAt e l fun L => L.expireEgress P.tick e.now).expireRegion l) P1
  (P2.boles.map fun x => x.1).foldl (fun P k => P.updNi k fun n => n.expireAll P.tick) P2

def execFlitExpiry (p : PkgId) (s : State) : Host.Outcome State Fault Refusal :=
  .next (s.onLive p fun P => P.flitExpiry (s.env p))

end Sys2Proof.Machine
end

