-- ==== Sys2Proof/Machine/FnCtl.lean ====
section
/-! DEFINITION. Function control: rows RING_ENABLE to NI_HOST_SIGNAL (R8, R380, R387, R388, R411, R413, R422, R423). -/

namespace Sys2Proof.Machine

/-! ### Ring control (R387, R388) -/

/-- Is a ring of a function mapped to an engine? -/
def Package.mapped (P : Package) (f r : Nat) : Bool :=
  (List.range 64).any fun e => let m := P.comm.engMap.get {} e; m.v && m.fn == f && m.ring == r

/-- FN_RINGS: 1 + the highest ring number mapped (R468). -/
def Package.ringCount (P : Package) (f : Nat) : Nat :=
  max (((List.range 16).filter fun r => P.mapped f r).foldl (fun m r => max m (r + 1)) 0) (if P.tagOfFn f = 0 then 0 else 1)

/-- A ring runs while it is enabled and mapped, and is DISABLED otherwise (Table 15.5): an engine that takes it up starts
fetching at HEAD, and one that gives it up keeps nothing of it. -/
def Package.mapRing (P : Package) (f r ctr : Nat) : Package :=
  let R := P.ring f r
  if R.en && P.mapped f r then
    if R.st = .disabled then P.updRing f r fun R => ({ R with st := .idle, fetchPos := R.head } : Ring).settle else P
  else if R.st = .disabled then P
  else ((P.stopExec f r ctr).staleReads f r).updRing f r fun R =>
    { R.emptied with st := .disabled, rstOut := false, fetchPos := R.head }

def Package.mapRings (P : Package) (ctr : Nat) : Package :=
  (List.range 17).foldl (fun P f => (List.range 16).foldl (fun P r => P.mapRing f r ctr) P) P

/-- Are the bases and the size of a ring good for EN (R388)? -/
def Ring.goodSetup (R : Ring) (log2size : Nat) : Bool :=
  decide (R.base % 4096 = 0 ∧ R.dbr % 16 = 0 ∧ R.cq % 4096 = 0 ∧ 6 ≤ log2size ∧ log2size ≤ 16)

/-- A write of FN_RING_CTRL; the field is RWL (R8, R386). -/
def Package.ringCtrl (P : Package) (f r v ctr : Nat) : Package :=
  let size := bits v 4 0
  let en := bitAt v 8
  if (P.fn f).lock then P
  else if en && !(P.ring f r).goodSetup size then P.updFn f fun F => { F with badCfg := true }
  else ((P.updRing f r fun R => { R with log2size := size, en := en, poll := bitAt v 9 }).mapRing f r ctr).runRing f r

def execRingEnable (p : PkgId) (f : FnIx) (r : RingIx) (v : BitVec 32) (s : State) : Host.Outcome State Fault Refusal :=
  .next (s.bump.onFn p f fun _ P => P.ringCtrl f r v.toNat s.freeCtr)

/-! ### Locks (R8) -/

def Package.lockFn (P : Package) (f : Nat) : Package := P.updFn f fun F => { F with lock := true }
def Package.lockRt (P : Package) : Package := P.updRt fun r => { r with lock := true }

def execFnSetupLock (p : PkgId) (f : FnIx) (s : State) : Host.Outcome State Fault Refusal :=
  .next (s.onFn p f fun _ P => P.lockFn f)

def execRtSetupLock (p : PkgId) (s : State) : Host.Outcome State Fault Refusal :=
  .next (s.onLive p Package.lockRt)

/-! ### Bus Master Enable and D3hot (R380, R422, R423) -/

/-- What the end of bus mastering does to one ring. -/
def Package.quiesce (P : Package) (f ctr r : Nat) : Package :=
  let R := P.ring f r
  let P1 := if R.st = .idle ∨ R.st = .running ∨ (R.st = .stopped ∧ R.rstOut) then P.stopRing f r ctr .quiesced else P
  P1.updRing f r fun R => { R with recOut := false, recMore := false, rstOut := false, fetchLen := 0 }

/-- The function masters the bus no more: its reads go, its rings freeze, its overflow reads fault. -/
def Package.masterOff (P : Package) (f ctr : Nat) : Package :=
  ((List.range 16).foldl (fun P r => P.quiesce f ctr r) ((P.failOvf f fcOvfUnavailable).dropReads f)).abortCheck f

def execBmeClear (p : PkgId) (f : FnIx) (s : State) : Host.Outcome State Fault Refusal :=
  .next (s.bump.onFn p f fun _ P => (P.updFn f fun F => { F with bme := false }).masterOff f s.freeCtr)

/-- Frozen rings stay frozen until FN_ABORT.RINGS; a cause that waits for Bus Master Enable sends its message. -/
def execBmeSet (p : PkgId) (f : FnIx) (s : State) : Host.Outcome State Fault Refusal :=
  .next (s.onFn p f fun _ P => (P.updFn f fun F => { F with bme := true }).vector f)

def execD3hotEntry (p : PkgId) (f : FnIx) (s : State) : Host.Outcome State Fault Refusal :=
  .next (s.bump.onFn p f fun _ P => (P.updFn f fun F => { F with d3 := true }).masterOff f s.freeCtr)

/-! ### Interrupts (R411, R413) -/

def Package.intAck (P : Package) (f : Nat) : Package := (P.updFn f fun F => { F with arm := true }).vector f

def execFnIntAck (p : PkgId) (f : FnIx) (s : State) : Host.Outcome State Fault Refusal :=
  .next (s.onFn p f fun _ P => P.intAck f)

def execNiHostSignal (p : PkgId) (k : BoleIx) (s : State) : Host.Outcome State Fault Refusal :=
  .next (s.onProg p k fun _ P => P.setBoleLeaf k bcSignal)

end Sys2Proof.Machine
end

