-- ==== Sys2Proof/Machine/Twig.lean ====
section
/-! DEFINITION. The twig network and the efts' arrival: EFT_PACKET, TW_SEND_WRITE to LOSS (R307 to R314, R323 to R327, R338). -/

namespace Sys2Proof

/-- KIND of an eft that goes to an inbox. -/
def Eft.toInbox (f : Eft) : Bool := decide (f.kind = 1 ∨ f.kind = 10)
def Eft.toEngine (f : Eft) : Bool := decide (2 ≤ f.kind ∧ f.kind ≤ 7)
def Eft.machine (f : Eft) : Bool := decide (f.kind = 8 ∨ f.kind = 9)

/-- Virtual channel of an eft at a place on its route: 1 once it has crossed the wrap link of the ring it travels. -/
def Eft.vcAt (f : Eft) (x y : Nat) : Nat :=
  if x ≠ f.dstX then (if f.dx then decide (f.srcX < x) else decide (x < f.srcX)).toNat
  else if y ≠ f.srcY then (if f.dy then decide (f.srcY < y) else decide (y < f.srcY)).toNat
  else (if f.dx then decide (f.srcX < x) else decide (x < f.srcX)).toNat

/-- Side of a link's two routers that an eft's line belongs to (R495). -/
def Eft.side (l : Nat) (f : Eft) : Nat := if l / 4 % 2 = 0 then f.dstX % 2 else f.srcY % 2

end Sys2Proof

namespace Sys2Proof.Machine

/-! ### Landing at a bole -/

/-- Can bole k take an eft from a network now (R314)? -/
def Package.eftRoom (P : Package) (k : Nat) (f : Eft) : Bool :=
  !f.toInbox || !P.up k ||
    (!((P.coll k).inbox.get {} f.inbox).off && !((P.coll k).arrived.any fun g : Eft => g.toInbox))

/-- An eft reaches bole k: discarded when the bole is masked, counted when its KIND is reserved (R311, Table 13.2). -/
def Package.eftLand (P : Package) (k : Nat) (f : Eft) : Package :=
  if !P.up k || f.machine then P
  else if f.toInbox || f.toEngine then P.updColl k fun c => { c with arrived := c.arrived ++ [f] }
  else P.updColl k fun c => c.twCount twBADEFT

/-! ### EFT packets (R309) -/

def Package.eftPacket (P : Package) (k : Nat) : Package :=
  match [6, 7].find? fun ch => !((P.bole k).ni.ej.get [] ch).isEmpty with
  | none => P
  | some ch =>
    match (P.bole k).ni.ej.get [] ch with
    | [] => P
    | fl :: rest =>
      let P1 := P.updNi k fun n => ({ n with ej := n.ej.set ch rest } : Ni).landAll
      match fl.hdr with
      | .follow _ => P1
      | .head h =>
        let f := Eft.ofValue (leNat (fl.data.take 16))
        if h.op ≠ .eft ∨ !fl.isLast then P1.updNi k fun n => n.badPacket h
        else if fl.poison || !ecrcGood [fl] then P1.updColl k fun c => c.twCount twBROKEN
        else if P.eftRoom k f then P1.eftLand k f else P

def execEftPacket (p : PkgId) (k : BoleIx) (s : State) : Host.Outcome State Fault Refusal :=
  .next (s.onBole p k fun _ P => P.eftPacket k)

/-! ### Sending (R313) -/

def Package.twSend (P : Package) (e : Env) (k : Nat) (f : Eft) : Package :=
  if f.kind ≠ 1 then P.updColl k fun c => c.twCount twBADEFT
  else if !(P.glade k).holds f.dstX f.dstY then P.fault k fcOutOfGlade 0x01000500
  else
    let P1 := P.updColl k fun c => { c with sendMon := { c.sendMon with pushCyc := some e.now } }
    if 16 ≤ (P.coll k).sendQ.length then P1.updColl k fun c => c.twCount twSENDREF
    else P1.updColl k fun c => c.setSendQ
      (c.sendQ ++ [{ P.mkEft e k 1 (f.dstX, f.dstY) 0 0 0 f.data with inbox := f.inbox }]) e.now

def execTwSendWrite (p : PkgId) (k : BoleIx) (f : Eft) (s : State) : Host.Outcome State Fault Refusal :=
  .next (s.onProg p k fun e P => P.twSend e k f)

/-! ### Twig routers (R308, R310, R311) -/

/-- The eft that bole k hands to its router next: the engine's and triggers' before the program's (DESIGN CHOICE, log 40). -/
def Coll.nextEft (c : Coll) : Option Eft :=
  match c.engQ with
  | f :: _ => some f.1
  | [] => c.sendQ.head?

/-- GROUP and EPOCH of the operation it comes from. -/
def Coll.nextKey (c : Coll) : Option (Nat × Nat) := (c.engQ.head?.map fun f => f.2).getD none

def Coll.popEft (c : Coll) (now : Nat) : Coll :=
  match c.engQ with
  | _ :: q => { c with engQ := q }
  | [] => c.setSendQ (c.sendQ.drop 1) now

/-- The eft at the head of an input of a twig router: the bole's send queue, a lane's channel, a buffer. -/
def Package.twHead (P : Package) (r port vc : Nat) : Option Eft :=
  match P.hop r port with
  | .bole k => if vc = 0 then (P.coll k).nextEft else none
  | .edge l side => match (P.link l).lane.rx.get [] vc with
    | f :: _ => if f.side l = side then some f else none
    | [] => none
  | _ => ((P.rtr r).tw.get [] (2 * port + vc)).head?

/-- Off state of a receiver of efts. -/
def twigOff (hi lo : Nat) (prev : Bool) (n : Nat) : Bool := if hi ≤ n then true else if n ≤ lo then false else prev

def Lane.setRx (L : Lane) (vc : Nat) (q : List Eft) : Lane :=
  { L with rx := L.rx.set vc q, rxOff := L.rxOff.set vc (twigOff 8 4 (L.rxOff.get false vc) q.length) }

def Router.setTw (R : Router) (key : Nat) (q : List Eft) : Router :=
  { R with tw := R.tw.set key q, twOff := R.twOff.set key (twigOff 5 3 (R.twOff.get false key) q.length) }

def Package.twPop (P : Package) (now r port vc : Nat) : Package :=
  match P.hop r port with
  | .bole k => P.updColl k fun c => c.popEft now
  | .edge l _ => P.updLink l fun L => { L with lane := L.lane.setRx vc ((L.lane.rx.get [] vc).drop 1) }
  | _ => P.updRtr r fun R => R.setTw (2 * port + vc) ((R.tw.get [] (2 * port + vc)).drop 1)

/-- Output port and virtual channel of an eft at a router. -/
def Package.twRoute (P : Package) (e : Env) (r port vc : Nat) (f : Eft) : Nat × Nat :=
  match P.boleAt r with
  | none => (if port = 0 then 2 else 0, vc)
  | some k =>
    let (x, y) := P.here k
    let o := if f.dstX ≠ x then (if f.dx then 3 else 1) else if f.dstY ≠ y then (if f.dy then 0 else 2) else 4
    let base := if (o = 0 ∨ o = 2) ∧ port ≠ 0 ∧ port ≠ 2 then 0 else vc
    let wrap := (o = 1 ∧ x = 64 * e.w - 1) ∨ (o = 3 ∧ x = 0) ∨ (o = 2 ∧ y = 64 * e.h - 1) ∨ (o = 0 ∧ y = 0)
    (o, if wrap then 1 else base)

/-- What lies behind a port of a twig router: across a dead router the next live one. -/
def Package.twHop (P : Package) (r o : Nat) : Hop :=
  match P.hop r o with
  | .gap dir => match P.boleAt r with
    | some k => if dir = 0 then .rtr (P.rtrAt (k % 8) (k / 8 + 1)) 0 else .rtr (P.rtrAt (k % 8) (k / 8 - 1)) 2
    | none => .nowhere
  | h => h

/-- May a twig lane forward this eft (R310)? -/
def Package.laneOwns (P : Package) (l k : Nat) (f : Eft) : Bool := f.machine || P.comm.owner.get 0 l == P.tagOf k

/-- An eft to another Stand leaves the bole as a VN3 packet, once its queue has a free entry (R138, R309). -/
def Package.twLeave (P : Package) (e : Env) (k : Nat) (f : Eft) : Package :=
  if 32 ≤ ((P.bole k).ni.q.get [] 3).length then P
  else
    let h : Head := { P.mkHead e k .eft f.dstX f.dstY 0 false 0 with dx := f.dx, dy := f.dy }
    (P.updColl k fun c => c.popEft e.now).pushQ e k 3 { what := .pkt (mkPacket h 1 (leBytes 16 f.value) []), key := (P.coll k).nextKey }

/-- The bole whose eft at this port is for another Stand. -/
def Package.twAbroad (P : Package) (r port : Nat) (f : Eft) : Option Nat :=
  match P.hop r port with
  | .bole k => if sameStand (P.here k) (f.dstX, f.dstY) then none else some k
  | _ => none

/-- Move the head eft of an input where its route leads, when that place takes it. -/
def Package.twMove (P : Package) (e : Env) (r port vc : Nat) (f : Eft) : Package :=
  match P.twAbroad r port f with
  | some k => P.twLeave e k f
  | none =>
  let (o, vc') := P.twRoute e r port vc f
  match P.twHop r o with
  | .bole k => if P.eftRoom k f then (P.twPop e.now r port vc).eftLand k f else P
  | .rtr r' p' =>
    let key := 2 * p' + vc'
    let R := P.rtr r'
    if !R.twOff.get false key && decide ((R.tw.get [] key).length < 8) then
      (P.twPop e.now r port vc).updRtr r' fun R => R.setTw key (R.tw.get [] key ++ [f])
    else P
  | .edge l _ =>
    let k := P.eventBole r
    if !P.laneOwns l k f then (P.twPop e.now r port vc).updColl k fun c => c.twCount twESCAPE
    else if !(P.link l).lane.partnerOff.get false vc' && decide ((P.link l).lane.out.length < 8) then
      (P.twPop e.now r port vc).updLink l fun L => { L with lane := { L.lane with out := L.lane.out ++ [f] } }
    else P
  | _ => P

def Package.twForward (P : Package) (e : Env) (r port vc : Nat) (ev : HopEvent) : Package :=
  match P.twHead r port vc with
  | none => P
  | some f =>
    if ev.headerBad || ev.payloadBad || ev.codeBad then
      (P.twPop e.now r port vc).updColl (P.eventBole r) fun c => c.twCount twBROKEN
    else P.twMove e r port vc f

/-- Has TW_SEND been written in this cycle: its queue is popped in a later one (R186)? -/
def Package.twPushed (P : Package) (r port now : Nat) : Bool :=
  match P.hop r port with
  | .bole k => decide ((P.coll k).sendMon.pushCyc = some now)
  | _ => false

def execTwigForward (p : PkgId) (r : RtrIx) (port : Port) (vc : Fin 2) (ev : HopEvent) (s : State) :
    Host.Outcome State Fault Refusal :=
  let s1 := s.inCycle ((s.pkg p).live && (s.pkg p).twPushed r (Port.num port) s.now)
  .next (s1.onLive p fun P => P.twForward (s1.env p) r (Port.num port) vc ev)

/-! ### Inboxes (R314, R473) -/

/-- Take the oldest arrived eft that meets a condition. -/
def Coll.takeEft (c : Coll) (ok : Eft → Bool) : Option (Eft × Coll) :=
  match c.arrived.find? ok with
  | some f => some (f, { c with arrived := c.arrived.erase f })
  | none => none

def execFlagEft (p : PkgId) (k : BoleIx) (s : State) : Host.Outcome State Fault Refusal :=
  .next (s.onBole p k fun e P =>
    match (P.coll k).takeEft fun f => f.toInbox && decide (((P.coll k).inbox.get {} f.inbox).q.length < 64) with
    | some (f, c) => (P.updColl k fun _ => c).inboxPush k f.inbox e.now f
    | none => P)

/-- A load of bytes 0 to 7 of TW_INBOX_i. It comes in a cycle after a push of this one (R186). -/
def Package.inboxPop (P : Package) (e : Env) (k i : Nat) : Package :=
  let b := (P.coll k).inbox.get {} i
  match b.q with
  | [] => P.updBole k fun B => { B.updColl fun c => { c with inbox := c.inbox.set i { b with latch := 0 } } with
      loaded := leBytes 8 0 }
  | (f, t) :: q =>
    let (b1, up) := ({ b with latch := f.value, mon := b.mon.left (e.now - t) } : Inbox).setQ q e.now
    (P.updBole k fun B => { B.updColl fun c => { c with inbox := c.inbox.set i b1 } with
      loaded := leBytes 8 f.value }).raiseWm k up

def execInboxPop (p : PkgId) (k : BoleIx) (i : Fin 16) (s : State) : Host.Outcome State Fault Refusal :=
  .next ((s.inCycle ((s.pkg p).live && decide (((((s.pkg p).coll k).inbox.get {} i.val).mon.pushCyc) = some s.now))).onProg p k
    fun e P => P.inboxPop e k i)

/-! ### The collective engine (R323 to R327) -/

/-- An upward eft: tallied for epoch e or e + 1, then whatever it lets the engine do. -/
def Package.engineUp (P : Package) (e : Env) (k : Nat) (f : Eft) : Package :=
  let t : Tally := { group := f.group, epoch := f.epoch, kind := f.kind, srcX := f.srcX, srcY := f.srcY, word := f.word, data := f.data }
  (P.updColl k fun c => { c with tally := c.tally ++ [t] }).collStep e k f.group

/-- A downward eft of the running operation: kept and forwarded on receipt. -/
def Package.engineDown (P : Package) (e : Env) (k : Nat) (f : Eft) : Package :=
  match (P.coll k).opOf f.group with
  | some o =>
    if o.started && o.onTwig && decide (o.epoch = f.epoch ∧ o.downKind = f.kind) && !(o.down.any fun x => x.1 == f.word) then
      (P.takeDown e k o f.word f.data.toNat).collStep e k f.group
    else P
  | none => P

/-- The oldest eft of a KIND that waits for the engine. -/
def Package.engineTake (P : Package) (e : Env) (k kind : Nat) : Package :=
  match (P.coll k).takeEft fun f => decide (f.kind = kind) with
  | none => P
  | some (f, c) =>
    let ep := (c.group f.group).epoch
    if f.epoch ≠ ep ∧ f.epoch ≠ (ep + 1) % 64 then P.updColl k fun _ => c.count clSTALE
    else
      let P1 := P.updColl k fun _ => c
      if kind = 2 ∨ kind = 4 ∨ kind = 6 then P1.engineUp e k f else P1.engineDown e k f

def execArrive (p : PkgId) (k : BoleIx) (s : State) : Host.Outcome State Fault Refusal :=
  .next (s.onBole p k fun e P => P.engineTake e k 2)
def execRelease (p : PkgId) (k : BoleIx) (s : State) : Host.Outcome State Fault Refusal :=
  .next (s.onBole p k fun e P => P.engineTake e k 3)
def execRedUp (p : PkgId) (k : BoleIx) (s : State) : Host.Outcome State Fault Refusal :=
  .next (s.onBole p k fun e P => P.engineTake e k 4)
def execRedDown (p : PkgId) (k : BoleIx) (s : State) : Host.Outcome State Fault Refusal :=
  .next (s.onBole p k fun e P => P.engineTake e k 5)
def execScanUp (p : PkgId) (k : BoleIx) (s : State) : Host.Outcome State Fault Refusal :=
  .next (s.onBole p k fun e P => P.engineTake e k 6)
def execScanDown (p : PkgId) (k : BoleIx) (s : State) : Host.Outcome State Fault Refusal :=
  .next (s.onBole p k fun e P => P.engineTake e k 7)

/-! ### Loss notices (R338) -/

/-- DATA of a LOSS eft (Table 13.2). -/
def lossWord (tag tick : Nat) (isAbort : Bool) : Nat := tick % 2 ^ 48 + 2 ^ 48 * (tag % 2 ^ 15) + 2 ^ 63 * b2n isAbort

/-- The notice goes into every NI of the package that serves the glade, and its function's leaf is set. -/
def Package.lossNotice (P : Package) (tag tick : Nat) (isAbort : Bool) : Package :=
  let ks := P.bolesOfTag tag
  let P1 := ks.foldl (fun P k => P.updColl k fun c => { c with loss := (lossWord tag tick isAbort :: c.loss).take 8 }) P
  if ks.isEmpty then P1 else P1.setFuncLeaf (P1.fnOfTag tag) fnGladeLoss

def execLoss (p : PkgId) (tag lossTick : Nat) (isAbort : Bool) (s : State) : Host.Outcome State Fault Refusal :=
  .next (s.onLive p fun P => P.lossNotice tag lossTick isAbort)

end Sys2Proof.Machine
end

