-- ==== Sys2Proof/Machine/Links.lean ====
section
/-! DEFINITION. Links: frames, acknowledgement and replay, HOLD, training, the twig lane: rows LINK_FRAME_RECEIVE to
TWIG_LANE_FRAME, LINK_FRAME_SEND and TWIG_LANE_FRAME_SEND (R134, R349 to R375, R492, R495). -/

namespace Sys2Proof.Machine

def Link.active (L : Link) : Bool := decide (L.train = .active)

/-- An event at a link whose frames flow. -/
def State.onActive (s : State) (p l : Nat) (f : Env → Package → Package) : State :=
  s.onLive p fun P => if (P.link l).active then f (s.env p) P else P

/-! ### Retraining (R370) -/

/-- A fast retrain begins: LOCK, with the measurements already held. -/
def Link.startFast (L : Link) : Link :=
  { L.count lkRETRAIN with train := .lock, fast := true, okNext := false, failFast := 0, failFull := 0, eventWin := true,
                           replays := 0, replayAt := none }

def Link.startFull (L : Link) : Link :=
  { L with train := .detect, fast := false, okNext := false, failFast := 0, eventWin := true }

/-! ### Link flits in a body (Table 14.4) -/

/-- What a body holds: flits of the dynamic plane, scheduled flits, the start of a flit that continues, and whether a
reserved LTYPE stands in it. -/
inductive LinkItem
  | flit (f : Flit)
  | sched (f : SchedFlit)
  deriving DecidableEq, Repr

structure Body where
  items : List LinkItem := []
  rest : List Byte := []
  bad : Bool := false
  deriving DecidableEq, Repr

def ltypeSize (t : Nat) : Nat := if t = 1 then 81 else if t = 2 then 66 else 68

def itemOf (tag : Nat) (bs : List Byte) : LinkItem :=
  let t := bits (fld bs 0 1) 3 0
  if t = 1 then .flit { hdr := .head (Head.ofValue (fld bs 1 16)), data := (bs.drop 17).take 64 }
  else if t = 2 then
    let w := fld bs 0 2
    .flit { hdr := .follow { last := bitAt w 4, vn := bits w 6 5, vc := bits w 7 7, poison := bitAt w 8, age := bits w 10 9,
                             idx := bits w 15 11 }, data := (bs.drop 2).take 64 }
  else
    let w := fld bs 0 4
    .sched { stream := bits w 13 4, idx := bits w 25 14, poison := bitAt w 26, isVoid := bitAt w 27, win2 := bits w 29 28,
             tag := tag, data := (bs.drop 4).take 64 }

/-- Cut a run of bytes into link flits; the count bounds the flits of one frame. -/
def parseBody (tag : Nat) : Nat → List Byte → Body
  | 0, bs => { rest := bs }
  | _, [] => {}
  | n + 1, b :: bs =>
    let t := bits b.toNat 3 0
    if t = 0 then {}
    else if 4 ≤ t then { bad := true }
    else
      let sz := ltypeSize t
      if (b :: bs).length < sz then { rest := b :: bs }
      else
        let r := parseBody tag n ((b :: bs).drop sz)
        { r with items := itemOf tag ((b :: bs).take sz) :: r.items }

/-! ### Receiving (R349, R355, R360, R492, R495) -/

/-- ACK covers stored frames up to its SEQ (R356). -/
def ackBuf (ack : Nat) (q : List LinkFrame) : List LinkFrame :=
  if q.any fun f : LinkFrame => f.seq == ack then (q.dropWhile fun f : LinkFrame => f.seq != ack).drop 1 else q

def Link.acked (L : Link) (ack : Nat) : Link :=
  let q := ackBuf ack L.replayBuf
  let gone (seq : Nat) : Bool := !q.any fun f : LinkFrame => f.seq == seq
  { L with replayBuf := q
           schedSeqs := L.schedSeqs.filter fun x => !gone x
           syncSeqs := L.syncSeqs.filter fun x => !gone x
           replayPos := match L.replayPos with
             | some sq => if gone sq then (q.head?).map fun f : LinkFrame => f.seq else some sq
             | none => none
           replays := if gone L.replayEseq then 0 else L.replays }

/-- ONOFF of a good header (Table 14.3). -/
def Link.onoff (L : Link) (v : Nat) : Link := { L with partnerOff := (List.range 8).map fun ch => (ch, !bitAt v ch) }

/-- The two lines that a link serves, and the Grove's edge (R495). -/
def Package.ingressOk (P : Package) (e : Env) (l : Nat) (h : Head) : Bool :=
  let j := l % 4
  decide (h.dstX < 64 * e.w ∧ h.dstY < 64 * e.h) &&
    (if l / 4 % 2 = 0 then decide (h.dstX / 2 = (P.baseX + 2 * j) / 2) else decide (h.srcY / 2 = (P.baseY + 2 * j) / 2))

/-- One flit of the dynamic plane arrives on its channel. -/
def Package.linkFlitIn (P : Package) (e : Env) (l : Nat) (f : Flit) : Package :=
  let ch := 2 * f.vn + f.vc
  let land (L : Link) : Link :=
    if L.regionFree ch = 0 then L.count lkOVERRUN else ({ L with rx := L.rx.upd [] ch fun q => q ++ [f] } : Link).rxSample
  match f.hdr with
  | .head h =>
    if P.ingressOk e l h then P.updLink l fun L => land { L with rxDrop := L.rxDrop.set ch false }
    else P.updLink l fun L => ({ L with rxDrop := L.rxDrop.set ch (!f.isLast) } : Link).escaped h.tag h.srcX h.srcY
  | .follow _ =>
    P.updLink l fun L =>
      if L.rxDrop.get false ch then { L with rxDrop := L.rxDrop.set ch (!f.isLast) } else land L

/-- A link flit arrives. A tick-sync eft goes no further than the package (R307, R374). A scheduled flit of a window that is
over is discarded and counted as one that no entry has claimed (R206, DEDUCED, log 41). -/
def Package.linkItemIn (P : Package) (e : Env) (l : Nat) : LinkItem → Package
  | .flit f => if f.tickSync then P.syncArrived e l else P.linkFlitIn e l f
  | .sched f =>
    if f.win2 = P.tick % 4 then P.updLink l fun L => { L with rxSched := L.rxSched ++ [f] }
    else P.count ((linkBoles l).headD 0) cSCHEDUNCLAIMED

/-- A bad frame: counted, and a replay is asked for (R355, R357). -/
def Link.badFrame (L : Link) : Link := { L.count lkFRAMEBAD with wantReplay := true }

/-- A frame that passes its FCRC and is bad under R492; eight in a row of the frame that is expected start a fast retrain. -/
def Link.bad492Frame (L : Link) (seq : Nat) : Link :=
  let L1 := L.badFrame
  let n := if seq = L.expSeq then L.bad492 + 1 else L.bad492
  if 8 ≤ n then ({ L1 with bad492 := 0 } : Link).startFast else { L1 with bad492 := n }

/-! ### Replay (R357, R359) -/

def Link.replayRequest (L : Link) (eseq now : Nat) : Link :=
  let due := match L.replayAt with | some t => decide (t + L.rtt ≤ now) | none => true
  if due && L.replayBuf.any fun f : LinkFrame => f.seq == eseq then
    { L.count lkREPLAY with replayPos := some eseq, replayAt := some now, replayNew := true, replayEseq := eseq,
                            replays := if L.replayEseq = eseq then L.replays + 1 else 1 }
  else L

def execReplayRequest (p : PkgId) (l : LinkIx) (eseq : Nat) (s : State) : Host.Outcome State Fault Refusal :=
  .next (s.onActive p l fun e P => P.updLink l fun L => L.replayRequest eseq e.now)

def execReplayLimit (p : PkgId) (l : LinkIx) (s : State) : Host.Outcome State Fault Refusal :=
  .next (s.onActive p l fun _ P => P.updLink l fun L => if 8 ≤ L.replays then L.startFast else L)

/-! ### HOLD (R362 to R367) -/

/-- CKM cycles of HT units of 8 ns, and of 8,192 ns. -/
def holdCycles (ht : Nat) : Nat := 12 * ht
def holdMax : Nat := 12288

def Link.setHold (L : Link) (vn : Nat) (h : HoldSt) : Link := { L with hold := L.hold.set vn h }

def Link.holdIn (L : Link) (vn ht hid now : Nat) : Link :=
  let h := L.hold.get {} vn
  if h.lastHid = some hid then L
  else
    let h1 : HoldSt := { h with lastHid := some hid }
    if vn = 3 then (L.setHold vn h1).count lkHOLDBAD
    else if ht = 0 then
      (if h.until_.isSome then L.setHold vn { h1 with until_ := none, wait := 0, start := none }
       else (L.setHold vn h1).count lkHOLDZERO)
    else if now < h.ignore then L.setHold vn h1
    else (L.setHold vn { h1 with until_ := some (now + holdCycles ht), wait := ht }).count lkHOLDRX

/-- What the CTL of a good header asks for (Table 14.3). -/
def Link.control (L : Link) (ctl cdata now : Nat) : Link :=
  if ctl = 1 then L.replayRequest (cdata % 4096) now
  else if ctl = 2 then L.holdIn (bits cdata 1 0) (bits cdata 9 2) (bits cdata 11 10) now
  else if ctl = 3 then L.startFast
  else L

/-- A frame: bad, or good, with its acknowledgement, its on/off state, its flits if it is the next in order, and its control
item. -/
def Package.frameIn (P : Package) (e : Env) (l : Nat) (fr : LinkFrame) (unc : Bool) : Package :=
  let L := P.link l
  let b := parseBody (P.comm.owner.get 0 l) 32 (L.part ++ padTo 1016 fr.body)
  let inSeq := decide (fr.seq = L.expSeq)
  if unc ∨ fr.fcrc ≠ fr.crc then P.updLink l Link.badFrame
  else if 4 ≤ fr.ctl ∨ fr.rsv ≠ 0 ∨ (!fr.null ∧ inSeq ∧ b.bad) then P.updLink l fun L => L.bad492Frame fr.seq
  else
    let P1 := P.updLink l fun L => (L.acked fr.ack).onoff fr.onoff
    let P2 :=
      if fr.null then
        if (fr.seq + 1) % 4096 = L.expSeq then P1 else P1.updLink l fun L => { L with wantReplay := true }
      else if inSeq then
        b.items.foldl (fun P x => P.linkItemIn e l x) (P1.updLink l fun L =>
          { L with expSeq := (L.expSeq + 1) % 4096, wantReplay := false, bad492 := 0, part := b.rest })
      else P1.updLink l fun L => L.count lkOOO
    P2.updLink l fun L => L.control fr.ctl fr.cdata e.now

/-- A frame arrives from the partner. The rows REPLAY_REQUEST, HOLD and FAST_RETRAIN stand for a header whose frame is not
spelled out; one that follows its own frame finds nothing left to do (R357, R362; log 42). -/
def execLinkFrameReceive (p : PkgId) (l : LinkIx) (fr : LinkFrame) (uncorrectable : Bool) (corr uncorr : Nat) (s : State) :
    Host.Outcome State Fault Refusal :=
  .next (s.onActive p l fun e P =>
    (P.updLink l fun L => (L.count lkFECCORR corr).count lkFECUNCORR uncorr).frameIn e l fr uncorrectable)

def execHold (p : PkgId) (l : LinkIx) (vn : Fin 4) (ht : Fin 256) (hid : Fin 4) (s : State) : Host.Outcome State Fault Refusal :=
  .next (s.onActive p l fun e P => P.updLink l fun L => L.holdIn vn ht hid e.now)

/-- A frame boundary of the transmitter: a HOLD that has been accepted takes effect, and its end counts from here. -/
def HoldSt.boundary (h : HoldSt) (now : Nat) : HoldSt :=
  if h.wait = 0 then h
  else { h with until_ := some (now + holdCycles h.wait), wait := 0, start := some (h.start.getD now) }

def Link.holdExpire (L : Link) (vn now : Nat) : Link :=
  let h := L.hold.get {} vn
  match h.until_ with
  | some t => if h.wait = 0 ∧ t ≤ now then L.setHold vn { h with until_ := none, start := none } else L
  | none => L

def execHoldExpire (p : PkgId) (l : LinkIx) (vn : Fin 4) (s : State) : Host.Outcome State Fault Refusal :=
  .next (s.onLive p fun P => P.updLink l fun L => L.holdExpire vn s.now)

def execHoldOverrun (p : PkgId) (l : LinkIx) (vn : Fin 4) (s : State) : Host.Outcome State Fault Refusal :=
  .next (s.onLive p fun P =>
    let h := (P.link l).hold.get {} vn
    match h.start with
    | some t =>
      if t + holdMax ≤ s.now then
        (P.updLink l fun L => (L.setHold vn { h with until_ := none, wait := 0, start := none, ignore := s.now + holdMax }).count
          lkHOLDBAD).setPkgLeaf pkHoldOverrun
      else P
    | none => P)

/-- LK_CTRL.HOLD_TX: three copies with the next HID; VN3 is ignored. -/
def Link.holdSend (L : Link) (vn ht : Nat) : Link :=
  if vn = 3 then L
  else
    { L with hidNext := (L.hidNext + 1) % 4
             holdTx := L.holdTx ++ [{ vn := vn, ht := ht, hid := L.hidNext, copies := 3, gap := 0 }] }

def execLkHoldTx (p : PkgId) (l : LinkIx) (vn : Fin 4) (ht : Fin 256) (s : State) : Host.Outcome State Fault Refusal :=
  .next (s.onLive p fun P => P.updLink l fun L => L.holdSend vn ht)

/-! ### Sending (R356, R357, R361, R362) -/

/-- The HOLD whose copy is due, and the list after the frame. -/
def nextHold : List HoldTx → Option HoldTx × List HoldTx
  | [] => (none, [])
  | h :: hs =>
    if h.gap = 0 then
      (some h, (if h.copies ≤ 1 then [] else [{ h with copies := h.copies - 1, gap := 4 }]) ++
        hs.map fun x => { x with gap := x.gap - 1 })
    else
      let (r, hs') := nextHold hs
      (r, { h with gap := h.gap - 1 } :: hs')

/-- Current header fields: ACK, ONOFF and CTL; a HOLD goes before a REPLAY. -/
def Link.header (L : Link) (fr : LinkFrame) (h : Option HoldTx) : LinkFrame :=
  let on_ := ((List.range 8).map fun ch => if L.rxState ch then 0 else 2 ^ ch).sum
  let (ctl, cdata) := match h with
    | some x => (2, x.vn + 4 * x.ht + 1024 * x.hid)
    | none => if L.wantReplay then (1, L.expSeq) else (0, 0)
  let f1 : LinkFrame := { fr with ack := (L.expSeq + 4095) % 4096, onoff := on_, ctl := ctl, cdata := cdata, rsv := 0 }
  { f1 with fcrc := f1.crc }

/-- The link flits assembled, with DATA of the tick-sync efts that begin in the next n bytes stamped. -/
def stampItems (stamp : Nat) : Nat → List (Nat × AsmKind) → List Byte → List Byte
  | _, [], bs => bs
  | n, (m, k) :: xs, bs =>
    if n = 0 then bs
    else
      let head := bs.take m
      (if k = .tickSync then (match itemOf 0 head with | .flit f => linkFlit (stampFlit stamp f) | .sched _ => head) else head) ++
        stampItems stamp (n - m) xs (bs.drop m)

/-- A new data frame is cut off what is assembled, and stored for replay. -/
def Link.cutFrame (L : Link) (null : LinkFrame) (stamp : Nat) : Link × LinkFrame :=
  let (sched, items) := cutItems 1016 L.asmItems
  let asm := if syncBegins 1016 L.asmItems then stampItems stamp 1016 L.asmItems L.asm else L.asm
  let f : LinkFrame := { null with null := false, seq := L.nextSeq, body := padTo 1016 asm }
  ({ L with asm := asm.drop 1016, asmItems := items, nextSeq := (L.nextSeq + 1) % 4096, replayBuf := L.replayBuf ++ [f]
            schedSeqs := if sched then L.schedSeqs ++ [L.nextSeq] else L.schedSeqs
            syncSeqs := if syncBegins 1016 L.asmItems then L.syncSeqs ++ [L.nextSeq] else L.syncSeqs }, f)

/-- Next frame of the sender: a replayed one, a new data frame, or a null frame. Where schedWaits, a replay stops before a
frame with scheduled flits (R200). The holdoff of R357 counts from the replay's first frame. -/
def Link.pickFrame (L : Link) (schedWaits : Bool) (stamp now : Nat) : Link × LinkFrame :=
  let null : LinkFrame := { null := true, seq := (L.nextSeq + 4095) % 4096, ack := 0, onoff := 0, ctl := 0, cdata := 0,
                            rsv := 0, body := List.replicate 1016 0, fcrc := 0 }
  let fresh : Link × LinkFrame :=
    if L.asm.isEmpty ∨ 256 ≤ L.replayBuf.length then (L, null) else L.cutFrame null stamp
  match L.replayPos with
  | some sq =>
    match L.replayBuf.dropWhile fun f : LinkFrame => f.seq != sq with
    | f :: rest =>
      if schedWaits && L.schedSeqs.contains f.seq then (L, null)
      else ({ L with replayPos := (rest.head?).map fun g : LinkFrame => g.seq, replayNew := false
                     replayAt := if L.replayNew then some now else L.replayAt }, f)
    | [] => fresh
  | none => fresh

def Link.sendFrame (L : Link) (schedWaits : Bool) (stamp now : Nat) : Link :=
  let (h, hs) := nextHold L.holdTx
  let (L1, fr) := L.pickFrame schedWaits stamp now
  let L2 : Link := { L1 with holdTx := hs, hold := L1.hold.map fun x => (x.1, x.2.boundary now) }
  { L2 with tx := some (L2.header fr h) }

/-- A cycle in which no scheduled frame may be replayed on a link: none of its link entries' LEN and SLACK cycles (R200).
Past the last of them in the window a replay goes on, and what it brings is discarded at the tick (DEDUCED, log 41). -/
def Package.schedWaits (P : Package) (e : Env) (l : Nat) : Bool :=
  let xs := (linkBoles l).flatMap fun k => if (P.sched k).active = 0 then [] else P.entriesAt e k (linkPort l)
  (xs.any fun x : SEntry => decide (P.cyc e < x.start)) && !xs.any fun x : SEntry => x.reserves (P.cyc e)

/-- A frame leaves; one in which a tick-sync eft begins is stamped (R374). -/
def Package.linkSend (P : Package) (e : Env) (l : Nat) : Package :=
  let L := (P.link l).sendFrame (P.schedWaits e l) (P.stamp e % 2 ^ 64) e.now
  let P1 := P.updLink l fun _ => L
  match L.tx with
  | some f => if f.null = false ∧ L.syncSeqs.contains f.seq then P1.syncLeft e l else P1
  | none => P1

def execLinkFrameSend (p : PkgId) (l : LinkIx) (s : State) : Host.Outcome State Fault Refusal :=
  .next (s.onActive p l fun e P => P.linkSend e l)

/-! ### Training (R134, R368 to R371, R455, R472) -/

def execFastRetrain (p : PkgId) (l : LinkIx) (s : State) : Host.Outcome State Fault Refusal :=
  .next (s.onLive p fun P => P.updLink l fun L =>
    if L.active then L.startFast
    else if L.fast ∧ L.failFast < 3 then { L with train := .lock, okNext := false, failFast := L.failFast + 1 }
    else L)

/-- Three failed fast retrains start a full train; a full train that has failed starts another. -/
def execFullTrain (p : PkgId) (l : LinkIx) (s : State) : Host.Outcome State Fault Refusal :=
  .next (s.onLive p fun P => P.updLink l fun L =>
    if L.disable ∨ L.down then L
    else if L.fast then (if 3 ≤ L.failFast then { L.startFull with failFull := 0 } else L)
    else if L.active ∨ 3 ≤ L.failFull then L
    else { L.startFull with failFull := L.failFull + 1 })

def execLinkDown (p : PkgId) (l : LinkIx) (s : State) : Host.Outcome State Fault Refusal :=
  .next (s.onLive p fun P =>
    if 3 ≤ (P.link l).failFull ∧ (P.link l).down = false then
      (P.updLink l fun L => { L with down := true, train := .detect }).setPkgLeaf pkLinkDown
    else P)

/-- A training state's condition is met and the link goes on to the next. -/
def Link.advance (L : Link) (a b : Train) : Link :=
  if L.train = a ∧ L.down = false ∧ L.disable = false then { L with train := b, okNext := false } else L

def execLinkDetect (p : PkgId) (l : LinkIx) (s : State) : Host.Outcome State Fault Refusal :=
  .next (s.onLive p fun P => P.updLink l fun L => L.advance .detect .equalise)

def execLinkEqualise (p : PkgId) (l : LinkIx) (s : State) : Host.Outcome State Fault Refusal :=
  .next (s.onLive p fun P => P.updLink l fun L => L.advance .equalise .lock)

def execLinkLock (p : PkgId) (l : LinkIx) (s : State) : Host.Outcome State Fault Refusal :=
  .next (s.onLive p fun P => P.updLink l fun L => L.advance .lock .ident)

def identPlace (d : Ident) : Nat × Nat × Nat × Nat := (d.stand, d.px, d.py, d.link)

/-- Packages of a sled: a row of four of its Stand. -/
def sledKeys (sled : Nat) : List Nat :=
  (List.range 4).map fun i => 64 * (sled / 16) + 8 * (sled % 16 / 2) + 4 * (sled % 2) + i

/-- The sled that a package is on. -/
def sledOf (key : Nat) : Nat := 16 * (key / 64) + 2 * (key % 64 / 8) + key % 8 / 4

/-- Every link of a returned sled has been admitted: its positions are available again (R457). -/
def State.sledAdmitted (s : State) (p : Nat) : State :=
  if (sledKeys (sledOf p)).all fun key => (List.range 16).all fun l => ((s.pkg key).link l).admitted then
    s.updStand (p / 64) fun r => { r with sledBack := r.sledBack &&& ~~~(1#16 <<< (sledOf p % 16)) }
  else s

/-- IDENT: the partner that Table 6.1 names is admitted, which ends the package's bring-up (R452); another is reported as
miscabled. In a fast retrain the partner must be the one last admitted. -/
def State.linkIdent (s : State) (p l : Nat) (id : Ident) : State :=
  let P := s.pkg p
  let L := P.link l
  let e := s.env p
  if !P.live || decide (L.train ≠ .ident) then s
  else if L.fast then
    let same := match L.partner with | some q => decide (identPlace q = identPlace id) && L.admitted | none => false
    if same then s.updPkg p fun P => P.updLink l fun L => { L with partner := some id, okNext := true } else s
  else if identPlace id = P.farEnd e l then
    (s.updPkg p fun P => (P.updLink l fun L =>
      { L with partner := some id, admitted := true, miscabled := false, train := .measure, okNext := false }).updRt
        fun r => { r with bringup := false }).sledAdmitted p
  else
    (s.updPkg p fun P => (P.updLink l fun L =>
        { L with partner := some id, admitted := false, miscabled := true }).setPkgLeaf pkMiscabled).updStand (p / 64)
      fun r => if L.miscabled then r else { r with alarms := r.alarms ++ [.miscabled (p % 64) l] }

def execLinkIdent (p : PkgId) (l : LinkIx) (id : Ident) (s : State) : Host.Outcome State Fault Refusal :=
  .next (s.linkIdent p l id)

/-- LK_RTT, LK_FIBRE_CYC and LK_SKID (R361, R369). -/
def Package.linkMeasure (P : Package) (e : Env) (l rtt probe : Nat) : Package :=
  P.updLink l fun L =>
    if L.train = .measure then
      let turn := match L.partner with | some q => q.turnaround | none => 0
      { L with rtt := rtt % 2048
               fibre := if P.linkInter e l then ceilDiv (probe - turn - 900) 2 % 65536 else 0
               skid := rtt % 2048 + 32
               tooLong := decide (1696 < rtt)
               okNext := decide (rtt ≤ 1696) }
    else L

def execLinkMeasure (p : PkgId) (l : LinkIx) (rtt probe : Nat) (s : State) : Host.Outcome State Fault Refusal :=
  .next (s.onLive p fun P => P.linkMeasure (s.env p) l rtt probe)

/-- ACTIVE: frames flow again from the partner's ESEQ (R371). -/
def Link.activate (L : Link) : Link :=
  if L.okNext && (decide (L.train = .measure) || (L.fast && decide (L.train = .ident))) then
    let eseq := match L.partner with | some q => q.eseq | none => 0
    { L with train := .active, fast := false, okNext := false, failFast := 0, failFull := 0, replayAt := none
             replayPos := if L.replayBuf.any fun f : LinkFrame => f.seq == eseq then some eseq else none }
  else L

def execLinkActive (p : PkgId) (l : LinkIx) (s : State) : Host.Outcome State Fault Refusal :=
  .next (s.onLive p fun P => P.updLink l Link.activate)

/-- LK_CTRL.RETRAIN. -/
def Link.retrain (L : Link) : Link := if L.active then L.startFast else L

/-- LK_CTRL.FULLTRAIN: clears DOWN, and trains a link that is not disabled. -/
def Link.fulltrain (L : Link) : Link :=
  if L.disable then { L with down := false, failFull := 0 }
  else { L.startFull with down := false, failFull := 0 }

def execLkRetrain (p : PkgId) (l : LinkIx) (s : State) : Host.Outcome State Fault Refusal :=
  .next (s.onLive p fun P => P.updLink l Link.retrain)

def execLkFulltrain (p : PkgId) (l : LinkIx) (s : State) : Host.Outcome State Fault Refusal :=
  .next (s.onLive p fun P => P.updLink l Link.fulltrain)

/-- LK_CTRL.DISABLE: the link goes down untrained, and trains again from DETECT once it is cleared (R455, R457). -/
def Link.setDisable (L : Link) (dis : Bool) : Link :=
  if dis then { L.startFull with disable := true } else { L with disable := false }

def execLkDisable (p : PkgId) (l : LinkIx) (dis : Bool) (s : State) : Host.Outcome State Fault Refusal :=
  .next (s.onLive p fun P => P.updLink l fun L => L.setDisable dis)

/-- LK_STATUS. -/
def Link.status (L : Link) : Nat :=
  (match L.train with | .detect => 0 | .equalise => 1 | .lock => 2 | .ident => 3 | .measure => 4 | .active => 5) +
    16 * b2n L.down + 32 * b2n L.tooLong + 64 * b2n L.miscabled + 128 * b2n L.disable

/-- LK_PARTNER. -/
def Link.partnerValue (L : Link) : Nat :=
  match L.partner with
  | some q => q.stand % 32 + 2 ^ 8 * (q.px % 8) + 2 ^ 12 * (q.py % 8) + 2 ^ 16 * (q.link % 16) + 2 ^ 24 * (q.ver % 16) + 2 ^ 31
  | none => 0

/-! ### Twig lane (R372, R373, R492) -/

def Lane.acked (N : Lane) (ack : Nat) : Lane :=
  let q := if N.replayBuf.any fun x : Nat × Eft => x.1 == ack
    then (N.replayBuf.dropWhile fun x : Nat × Eft => x.1 != ack).drop 1 else N.replayBuf
  { N with replayBuf := q
           replayPos := match N.replayPos with
             | some sq => if q.any fun x : Nat × Eft => x.1 == sq then some sq else (q.head?).map fun x : Nat × Eft => x.1
             | none => none }

def Lane.ask (N : Lane) : Lane := { N with wantReplay := true }

/-- Receive channel of an eft that arrives. -/
def Package.laneVc (P : Package) (l : Nat) (f : Eft) : Nat :=
  let k := (linkBoles l).getD (f.side l) 0
  f.vcAt (P.boleX k) (P.boleY k)

def Link.updLane (L : Link) (f : Lane → Lane) : Link := { L with lane := f L.lane }

/-- The eft that was expected arrives. A tick-sync eft goes no further than the package. -/
def Link.laneEft (L : Link) (vc : Nat) (f : Eft) : Link :=
  let L1 := L.updLane fun N => { N with expSeq := (N.expSeq + 1) % 32, wantReplay := false, bad3 := 0 }
  if f.kind = 9 then L1 else
  let q := L1.lane.rx.get [] vc
  if 32 ≤ q.length then L1.count lkOVERRUN else L1.updLane fun N => N.setRx vc (q ++ [f])

/-- KIND 3: bad, and eight in a row start a fast retrain. -/
def Link.laneBad3 (L : Link) : Link :=
  let L1 := (L.count lkFRAMEBAD).updLane fun N => { N.ask with bad3 := N.bad3 + 1 }
  if 8 ≤ L1.lane.bad3 then (L1.updLane fun N => { N with bad3 := 0 }).startFast else L1

def Link.laneIn (L : Link) (vc : Nat) (fr : LaneFrame) : Link :=
  if fr.lcrc ≠ fr.crc then (L.count lkFRAMEBAD).updLane Lane.ask
  else if fr.kind = 3 then L.laneBad3
  else
    let L1 := L.updLane fun N => { N.acked fr.ack with partnerOff := [(0, !bitAt fr.onoff 0), (1, !bitAt fr.onoff 1)] }
    if fr.kind = 0 then
      (if (fr.seq + 1) % 32 = L1.lane.expSeq then L1 else L1.updLane Lane.ask)
    else if fr.kind = 1 then
      (if fr.seq = L1.lane.expSeq then L1.laneEft vc fr.eft else L1.count lkOOO)
    else if 24 ≤ L1.lane.holdoff ∧ (L1.lane.replayBuf.any fun x : Nat × Eft => x.1 == fr.eseq) then
      (L1.count lkREPLAY).updLane fun N => { N with replayPos := some fr.eseq, holdoff := 0 }
    else L1

/-- A lane frame arrives; a tick-sync eft that it delivers is stamped (R374). -/
def Package.laneReceive (P : Package) (e : Env) (l : Nat) (fr : LaneFrame) : Package :=
  let P1 := P.updLink l fun L => L.laneIn (P.laneVc l fr.eft) fr
  if fr.lcrc = fr.crc ∧ fr.kind = 1 ∧ fr.seq = (P.link l).lane.expSeq ∧ fr.eft.kind = 9 then P1.syncArrived e l else P1

def execTwigLaneFrame (p : PkgId) (l : LinkIx) (fr : LaneFrame) (s : State) : Host.Outcome State Fault Refusal :=
  .next (s.onActive p l fun e P => P.laneReceive e l fr)

/-- What the lane sends next, before its header. -/
def Lane.pick (N : Lane) : Lane × LaneFrame :=
  let idle : LaneFrame := { kind := 0, seq := (N.nextSeq + 31) % 32, ack := 0, onoff := 0, eft := default, eseq := 0, lcrc := 0 }
  let fresh : Lane × LaneFrame := match N.out with
    | f :: fs =>
      if N.replayBuf.length < 24 then
        ({ N with out := fs, nextSeq := (N.nextSeq + 1) % 32, replayBuf := N.replayBuf ++ [(N.nextSeq, f)] },
          { idle with kind := 1, seq := N.nextSeq, eft := f })
      else (N, idle)
    | [] => (N, idle)
  if N.wantReplay ∧ 24 ≤ N.reqGap then ({ N with reqGap := 0 }, { idle with kind := 2, eseq := N.expSeq })
  else match N.replayPos with
    | some sq =>
      match N.replayBuf.dropWhile fun x : Nat × Eft => x.1 != sq with
      | x :: rest => ({ N with replayPos := (rest.head?).map fun y : Nat × Eft => y.1 }, { idle with kind := 1, seq := x.1, eft := x.2 })
      | [] => fresh
    | none => fresh

def Lane.send (N : Lane) (stamp : Nat) : Lane :=
  let (N1, fr) := N.pick
  let f1 : LaneFrame := { fr with eft := stampEft stamp fr.eft, ack := (N1.expSeq + 31) % 32,
                                  onoff := b2n (!N1.rxOff.get false 0) + 2 * b2n (!N1.rxOff.get false 1) }
  { N1 with holdoff := min 24 (N1.holdoff + 1)
            reqGap := if N1.wantReplay then min 24 (N1.reqGap + 1) else 24
            tx := some { f1 with lcrc := f1.crc } }

def Package.laneSend (P : Package) (e : Env) (l : Nat) : Package :=
  let N := (P.link l).lane.send (P.stamp e % 2 ^ 64)
  let P1 := P.updLink l fun L => L.updLane fun _ => N
  match N.tx with
  | some f => if f.kind = 1 ∧ f.eft.kind = 9 then P1.syncLeft e l else P1
  | none => P1

def execTwigLaneFrameSend (p : PkgId) (l : LinkIx) (s : State) : Host.Outcome State Fault Refusal :=
  .next (s.onActive p l fun e P => P.laneSend e l)

end Sys2Proof.Machine
end

