-- ==== Sys2Proof/Machine/Mcast.lean ====
section
/-! DEFINITION. Multicast trees and in-network sums: MCAST_ISSUE to REDUCE_ROOT_LAND (09, with R251, R265, R266, R330, R331). -/

namespace Sys2Proof.Machine

/-! ### Issue (R218, R220, R229) -/

def Package.mcastIssue (P : Package) (e : Env) (k : Nat) (m : McOp) : Package :=
  if !(m.set.inGlade (P.glade k)) then P.fault k fcOutOfGlade m.loc
  else if leafTop < m.src + 64 * m.granules then P.fault k fcAddress m.src
  else if m.granules = 0 ∨ 960 < m.granules then P
  else P.mcStart e k m none 0

def execMcastIssue (p : PkgId) (k : BoleIx) (m : McOp) (s : State) : Host.Outcome State Fault Refusal :=
  .next (s.onProg p k fun e P => P.mcastIssue e k m)

/-! ### Replication at a router (R221 to R225) -/

/-- The source whose VN2 flits arrive on a port and virtual channel: the input buffer, or what a detour brings. -/
def Package.srcAt (P : Package) (r port vc : Nat) : Option Src :=
  let main : Src := { stage := 0, port := port, vn := 2, x := vc }
  let dets : List Src := (P.sources r).filter fun s : Src => decide (s.stage = 3 ∧ s.vn = 2)
  (main :: dets).find? fun s => match P.srcHead r s with
    | some f => s.inKey f == vkey port 2 vc
    | none => false

/-- Is the pruned eject branch's own MACK due: the last packet of an attempt (R225)? -/
def lastOfAttempt (set : List Byte) : Bool := bits (fld set 10 3) 4 0 == bits (fld set 10 3) 9 5

/-- Books of a router after an MCAST flit went into the multicast buffer. -/
def Router.took (R : Router) (m : Nat) (f : Flit) (br : List Nat) : Router :=
  { R with mbuf := R.mbuf.upd [] m fun l => l ++ [(f, br)]
           mbr := R.mbr.set m br
           mopen := R.mopen.set m (if f.isLast then 0 else f.age + 1) }

/-- Branches of the packet whose head flit waits at a source, once its set flit has arrived (R222); whether the eject branch
is pruned, and whether the pruned branch's own MACK is due (R225). -/
structure McTurn where
  branches : List Nat
  pruned : Bool
  due : Bool
  set : List Byte
  deriving DecidableEq, Repr

def Package.mcTurnOf (P : Package) (e : Env) (r k : Nat) (s : Src) (f : Flit) (h : Head) : Option McTurn :=
  match P.srcFlits r s with
  | _ :: g :: _ =>
    let br := P.branches e k (s.inKey f / 8) h (setOf g.data)
    let pruned := br.contains 4 && !P.up k
    some { branches := if pruned then br.filter (· != 4) else br, pruned := pruned, due := pruned && lastOfAttempt g.data,
           set := g.data }
  | _ => none

/-- Take the head flit of a source, already checked, into the multicast buffer. -/
def Package.mcTake1 (P : Package) (e : Env) (r k : Nat) (s : Src) (f : Flit) : Package :=
  let m := mKey (s.inKey f)
  let take (P : Package) (br : List Nat) : Package :=
    (P.srcPop e r s).updRtr r fun R =>
      { R.took m f br with chk := R.chk.upd {} (s.track f) fun c => (c.take f .clean).2 }
  match f.hdr with
  | .follow _ => if (P.rtr r).mopen.get 0 m ≠ 0 then take P ((P.rtr r).mbr.get [] m) else P
  | .head h =>
    if h.op ≠ .mcast then P
    else match P.mcTurnOf e r k s f h with
      | none => P
      | some x =>
        if x.due && decide (12 < ((P.rtr r).buf.get [] (vkey 4 2 0)).length) then P
        else
          let P1 := take P x.branches
          if x.due then P1.updRtr r fun R => R.put (vkey 4 2 0) false
            ((P.mack e k h (setOf x.set) (h.alive / 32) (bits (fld x.set 10 3) 13 10) 1 0).map (stampAt e.now))
          else P1

/-- The next flit at an input moves into the multicast buffer when its half has a slot and its branches can be decided; it is
checked as it is read (R224, R241). -/
def Package.mcIntake (P : Package) (e : Env) (r k : Nat) (s : Src) (read : HopEvent) : Package :=
  match P.srcHead r s with
  | none => P
  | some f0 =>
    if 16 ≤ ((P.rtr r).mbuf.get [] (mKey (s.inKey f0))).length ∨ expired P.tick f0.age then P
    else if !P.otherRow e r s f0 || !(match f0.hdr with | .head h => decide (h.op = .mcast) | .follow _ => true) then P
    else match P.checkHop e r s f0 read with
      | (P1, none) => P1
      | (P1, some f) => P1.mcTake1 e r k s f

/-- Held flits whose branches are all gone are freed. -/
def freeHeld (l : List (Flit × List Nat)) : List (Flit × List Nat) := l.filter fun x => !x.2.isEmpty

/-- One branch sends its next flit when the port grants it (R137, R224). It checks the flit as it reads it: what it may not
pass on, it drops. -/
def Package.mcSend (P : Package) (e : Env) (r ip vc o : Nat) (read arrive : HopEvent) : Package :=
  let s : Src := { stage := 10 + o, port := ip, vn := 2, x := vc }
  let key := 8 * (2 * ip + vc) + o
  match P.srcHead r s with
  | none => P
  | some f0 =>
    let P1 := P.hopEvent (P.eventBole r) read.ofRead
    match ((P.rtr r).brChk.get {} key).take f0 read.ofRead with
    | (none, c) => (P1.srcPop e r s).updRtr r fun R => { R with brChk := R.brChk.set key c }
    | (some f, c) =>
      match P.moveOf e r s with
      | some m =>
        if P.grants e r s m then
          (P1.moveFlit e r s m f arrive).updRtr r fun R => { R with brChk := R.brChk.set key c }
        else P
      | none => P

/-- What one branch's part of the row finds. -/
def branchEvent (bs : List BranchEvent) (o : Nat) : HopEvent × HopEvent :=
  match bs.find? fun b => Port.num b.branch == o with
  | some b => (b.read, b.arrive)
  | none => (.clean, .clean)

/-- A cycle's worth of replication at one input: a flit moves into the multicast buffer, and each branch sends one flit. -/
def Package.mcReplicate (P : Package) (e : Env) (r port vc : Nat) (read : HopEvent) (bs : List BranchEvent) : Package :=
  match P.boleAt r with
  | none => P
  | some k =>
    let P1 := match P.srcAt r port vc with
      | some s => P.mcIntake e r k s read
      | none => P
    let P2 := P1.updRtr r fun R => { R with mbuf := R.mbuf.upd [] (mKey (vkey port 2 vc)) freeHeld }
    [0, 1, 2, 3, 4].foldl (fun P o => P.mcSend e r port vc o (branchEvent bs o).1 (branchEvent bs o).2) P2

/-- The branches of an input, as sources of their router. -/
def branchSrcs (ip vc : Nat) : List Src :=
  (List.range 5).map fun o => { stage := 10 + o, port := ip, vn := 2, x := vc }

def execMcastReplicate (p : PkgId) (r : RtrIx) (port : Port) (vc : Fin 2) (s : State) (read : HopEvent := {})
    (branches : List BranchEvent := []) : Host.Outcome State Fault Refusal :=
  let s1 := s.inCycle ((s.pkg p).live && (s.pkg p).portsUsed (s.env p) r (branchSrcs (Port.num port) vc))
  .next (s1.onLive p fun P => P.mcReplicate (s1.env p) r (Port.num port) vc read branches)

/-! ### Delivery (R223, R226, R266, R331) -/

/-- What a set flit says of a multicast packet. -/
structure McInfo where
  opnum : Nat
  seq : Nat
  npkt : Nat
  attempt : Nat
  status : Nat
  flag : Nat
  set : McSet
  /-- Bytes that its last granule brings. -/
  lastBytes : Nat
  deriving DecidableEq, Repr

def mcInfo (h : Head) (p : List Byte) : McInfo :=
  let c := fld p 10 3
  { opnum := h.alive / 32 % 2048, seq := bits c 4 0, npkt := bits c 9 5 + 1, attempt := bits c 13 10, status := bits (fld p 15 1) 3 0,
    flag := fld p 24 4, set := setOf p, lastBytes := if bits (fld p 14 1) 5 0 = 0 then 64 else bits (fld p 14 1) 5 0 }

/-- The record of an operation; a new one takes the place of the older of two. -/
def Dedup.mcFor (d : Dedup) (i : McInfo) : Dedup × McRec :=
  match d.mc.find? fun r : McRec => r.opnum == i.opnum with
  | some r => (d, r)
  | none =>
    let r : McRec := { opnum := i.opnum, held := 0, npkt := i.npkt }
    ({ d with mc := (if 2 ≤ d.mc.length then d.mc.drop 1 else d.mc) ++ [r] }, r)

def Dedup.setMc (d : Dedup) (r : McRec) : Dedup := { d with mc := d.mc.map fun x : McRec => if x.opnum = r.opnum then r else x }

/-- All packets of the operation are held. -/
def McRec.full (r : McRec) : Bool := (List.range r.npkt).all fun i => r.held.getLsbD i

/-- The running operation whose chunk flag stands at an address, with the chunk. -/
def Package.flagOwner (P : Package) (k a : Nat) : Option (CollOp × Nat) :=
  ((P.coll k).ops.find? fun o : CollOp =>
    o.started && decide (3 ≤ o.opc ∧ o.flagBase ≤ a ∧ (a - o.flagBase) % 8 = 0) &&
      ((P.chunkCtx k o).flags.contains ((a - o.flagBase) / 8))).map fun o => (o, (a - o.flagBase) / 8)

/-- The destination's flag: a chunk flag of a running collective, which may complete it; else 8 bytes that hold STATUS where
a chunk flag does, and are free but for it (DEDUCED, log 38). -/
def Package.mcFlag (P : Package) (e : Env) (k : Nat) (i : McInfo) (bad : Bool) (free : BitVec 64) : Package :=
  if i.flag = 0 then P
  else match P.flagOwner k i.flag with
    | some (o, c) => (P.writeFlag k o c (i.status ||| (if bad then 8 else 0))).collCheck e k o.group
    | none => P.recordWrite k i.flag
        (leBytes 4 free.toNat ++ leBytes 1 (i.status ||| (if bad then 8 else 0)) ++ (leBytes 8 free.toNat).drop 5)

/-- One MACK for an attempt once every packet is held (R226). -/
def Package.mackOnce (P : Package) (e : Env) (k : Nat) (h : Head) (i : McInfo) (r : McRec) : Package :=
  if r.full && !r.macked.contains i.attempt then
    (P.updNi k fun n => n.updDedup h fun d => d.setMc { r with macked := (i.attempt :: r.macked).take 8 }).pushQ e k 2
      { what := .pkt (P.mack e k h i.set i.opnum i.attempt 0 (if r.bad then 8 else 0)) }
  else P

/-- Does a packet bring a chunk of an ALLGATHER or ALLGATHERV that runs here? Its place need be no multiple of 64 (R318). -/
def Package.mcGathers (P : Package) (k : Nat) (i : McInfo) : Bool :=
  match P.flagOwner k i.flag with
  | some (o, _) => decide (o.opc = 7 ∨ o.opc = 8)
  | none => false

/-- Checks of a WRITE on n bytes of a multicast packet's data (R166, R223). -/
def Package.mcGood (P : Package) (k : Nat) (h : Head) (i : McInfo) (n : Nat) : Bool :=
  P.memOk k h.loc n && (decide (h.loc % 64 = 0) || P.mcGathers k i)

/-- A packet from a source with an entry. -/
def Package.mcTake (P : Package) (e : Env) (k : Nat) (h : Head) (fs : List Flit) (i : McInfo) (d : Dedup) (free : BitVec 64) :
    Package :=
  let (d1, r) := d.mcFor i
  if r.held.getLsbD i.seq then
    ((P.updNi k fun n => n.updDedup h fun _ => { d1 with last := P.tick }).count k cDUP).mackOnce e k h i r
  else
    let data := (payloadOf (fs.drop 2)).take (64 * (fs.length - 3) + i.lastBytes)
    let good := P.mcGood k h i data.length
    let P1 := if good then P.memWrite k h.loc data else P
    let r1 : McRec := { r with held := r.held ||| (1#32 <<< i.seq), bad := r.bad || !good }
    let P2 := P1.updNi k fun n => n.updDedup h fun _ => { d1.setMc r1 with last := P.tick }
    let P3 := if r1.full then P2.mcFlag e k i r1.bad free else P2
    P3.mackOnce e k h i r1

def Package.mcDeliver (P : Package) (e : Env) (k : Nat) (free : BitVec 64) : Package :=
  match (P.bole k).ni.take .mcast with
  | none => P
  | some (h, fs, n) =>
    let P1 := P.updNi k fun _ => n
    if n.aborting || n.quarantine.isSome then P1.count k cQUARANTINE
    else if malformed .mcast fs then P1.updNi k fun n => n.badPacket h
    else if pktPoison fs then P1
    else if !ecrcGood fs then P1.count k cECRC
    else
      let i := mcInfo h ((fs.getD 1 { hdr := .head h, data := [] }).data)
      match n.dedupOf h.srcX h.srcY h.tag with
      | some d => P1.mcTake e k h fs i d free
      | none =>
        if 512 ≤ n.dedup.length then P1.count k cDEDUPFULL
        else
          let d : Dedup := { srcX := h.srcX, srcY := h.srcY, tag := h.tag, vn0 := false }
          (P1.updNi k fun n => { n with dedup := n.dedup ++ [d] }).mcTake e k h fs i d free

def execMcastDeliver (p : PkgId) (k : BoleIx) (s : State) : Host.Outcome State Fault Refusal :=
  .next (s.bump.onBole p k fun e P => P.mcDeliver e k (Config.mcFlag s.freeCtr))

/-! ### The source (R227 to R230) -/

/-- The completion record (Table 9.4). -/
def McSrc.record (m : McSrc) (t : McTally) (tick : Nat) : List Byte :=
  padTo 128 (leBytes 2 m.opnum ++ leBytes 1 (b2n (decide (t.pruned ≠ 0)) + 2 * b2n m.stalled + (t.status &&& 8)) ++
    leBytes 1 (min 255 (m.attempt + 1)) ++ leBytes 4 (t.contrib - t.pruned) ++ leBytes 4 t.pruned ++ leBytes 4 tick ++
    leBytes 64 t.maskX ++ leBytes 32 t.maskY)

/-- A multicast operation completes: its record, or its part in its collective. -/
def Package.mcComplete (P : Package) (e : Env) (k : Nat) (m : McSrc) (t : McTally) : Package :=
  let P1 := P.updNi k fun n => { n with mc := n.mc.filter fun x : McSrc => x.opnum != m.opnum }
  let P0 := match m.chain with
    | some j => P1.updColl k fun c => c.addCtr (j % 256) 1
    | none => P1
  let P1 := P0.mcNext e k
  match m.coll with
  | none => P1.recordWrite k m.op.record (m.record t P.tick)
  | some (g, ep, _) =>
    let P2 := if m.op.record = 0 then P1 else P1.recordWrite k m.op.record (m.record t P.tick)
    (P2.updColl k fun c => c.updOp g fun o => if o.epoch = ep then { o with pruned := o.pruned + t.pruned } else o).collCheck e k g

/-- A MACK adds to its attempt. -/
def McTally.add (t : McTally) (b : RedBody) : McTally :=
  { contrib := t.contrib + b.contrib, pruned := t.pruned + b.pruned,
    status := t.status ||| b.status ||| (if b.poison then 2 else 0),
    maskX := t.maskX ||| fld b.data 0 64, maskY := t.maskY ||| fld b.data 64 32 }

def isMack (h : Head) (fs : List Flit) : Bool :=
  decide (h.op = .reduce) && (match redOf fs with | some (key, _) => key.rtag == 0xFFF | none => false)

def Package.mackArrives (P : Package) (e : Env) (k : Nat) : Package :=
  match (P.bole k).ni.takeBy isMack with
  | none => P
  | some (h, fs, n) =>
    let P1 := P.updNi k fun _ => n
    if malformed .reduce fs then P1.updNi k fun n => n.badPacket h
    else if !pktPoison fs && !ecrcGood fs then P1.count k cECRC
    else match redOf fs with
      | none => P1
      | some (key, b) =>
        match n.mc.find? fun m : McSrc => m.opnum == key.chunk % 2048 with
        | none => P1
        | some m =>
          let a := bits key.chunk 14 11
          let t := (m.tally.get {} a).add b
          let m1 : McSrc := { m with tally := m.tally.set a t }
          let P2 := P1.updNi k fun n => { n with mc := n.mc.map fun x : McSrc => if x.opnum = m.opnum then m1 else x }
          if t.contrib = m.op.set.size then P2.mcComplete e k m1 t else P2

def execMackArrival (p : PkgId) (k : BoleIx) (s : State) : Host.Outcome State Fault Refusal :=
  .next (s.onBole p k fun e P => P.mackArrives e k)

/-- The next attempt, at the second tick after the window of the last packet's injection. -/
def Package.mcRetry (P : Package) (e : Env) (k opnum : Nat) : Package :=
  match (P.bole k).ni.mc.find? fun m : McSrc => m.opnum == opnum with
  | none => P
  | some m =>
    match m.lastWin with
    | none => P
    | some w =>
      if w + 2 ≤ P.tick ∧ (m.tally.get {} (m.attempt % 16)).contrib < m.op.set.size then
        let m1 : McSrc := { m with attempt := m.attempt + 1, lastWin := none, tally := m.tally.set ((m.attempt + 1) % 16) {} }
        (P.updNi k fun n => { n with mc := n.mc.map fun x : McSrc => if x.opnum = opnum then m1 else x }).mcPush e k m1
      else P

def execMcastAttemptRetry (p : PkgId) (k : BoleIx) (opnum : Fin 2048) (s : State) : Host.Outcome State Fault Refusal :=
  .next (s.onBole p k fun e P => P.mcRetry e k opnum)

/-- The branch stall of R228: 4 tick periods, of the length in force at the first injection (R7). -/
def Package.branchStall (P : Package) (k opnum now : Nat) : Package :=
  match (P.bole k).ni.mc.find? fun m : McSrc => m.opnum == opnum with
  | none => P
  | some m =>
    match m.firstAt with
    | none => P
    | some (t, period) =>
      if t + 4 * windowCycles period ≤ now ∧ m.stalled = false then
        (P.updNi k fun n => { n with
          mc := n.mc.map fun x : McSrc => if x.opnum = opnum then { x with stalled := true } else x
          bstallOp := opnum, bstallV := true }).count k cBSTALL
      else P

def execBranchStall (p : PkgId) (k : BoleIx) (opnum : Fin 2048) (s : State) : Host.Outcome State Fault Refusal :=
  .next (s.onBole p k fun e P => P.branchStall k opnum e.now)

/-! ### Combining (R231 to R239, R251) -/

/-- A whole REDUCE packet that waits at the head of an input and combines here. -/
def Package.waitingRed (P : Package) (e : Env) (r port : Nat) : Option (Src × List Flit) :=
  ([0, 1].filterMap fun vc => P.srcAt r port vc).findSome? fun s =>
    match P.srcFlits r s with
    | f :: rest =>
      let body := rest.takeWhile fun g => !g.isHead && !g.isLast
      let fs := f :: body ++ (rest.drop body.length).take 1
      let whole := match fs.getLast? with | some l => l.isLast && !l.isHead | none => false
      match f.hdr with
      | .head h => if whole && decide (h.op = .reduce) && P.otherRow e r s f && !expired P.tick f.age then some (s, fs) else none
      | .follow _ => none
    | [] => none

/-- Number of the entry of a key, or of a free one. -/
def Router.combAt (R : Router) (key : RedKey) : Option Nat :=
  match (List.range 64).find? fun i => match R.comb.get none i with | some c => c.key == key | none => false with
  | some i => some i
  | none => (List.range 64).find? fun i => (R.comb.get none i).isNone

/-- The input port opposite an output port: where a contribution on the outgoing axis and direction came in. -/
def backPort (o : Nat) : Nat := if o = 1 then 3 else if o = 3 then 1 else if o = 2 then 0 else if o = 0 then 2 else 5

/-- Send what an entry holds as a new packet from this router (R232). -/
def Package.sendComb (P : Package) (e : Env) (k : Nat) (c : Comb) (flushed : Bool) : Package :=
  let r := P.rtrOf k
  match foldEntry P.tick c.parts with
  | none => P
  | some b =>
    let h : Head := { P.mkHead e k .reduce c.key.dstX c.key.dstY b.loc false 0 with tag := c.key.tag, age := b.age }
    let b1 : RedBody := { b with status := b.status ||| (if flushed then 4 else 0) }
    let (o, _) := P.route e r 4 h
    let vc := match c.parts.find? fun x : Nat × RedBody => x.1 == backPort o with | some x => x.2.vc | none => 0
    P.updRtr r fun R => { R with comOut := R.comOut.upd [] vc fun l => l ++ (redPacket h c.key b1).map (Flit.setVc · vc) }

/-- Read the flits of a waiting packet one by one, each checked (R241): what is left of it. -/
def Package.readPacket (P : Package) (e : Env) (r : Nat) (s : Src) : List Flit → List HopEvent → List Flit × Package
  | [], _ => ([], P)
  | f :: fs, evs =>
    let ev := (evs.headD .clean).ofRead
    let (g, c) := ((P.rtr r).chk.get {} (s.track f)).take f ev
    let P1 := ((P.srcPop e r s).updRtr r fun R => { R with chk := R.chk.set (s.track f) c }).hopEvent (P.eventBole r) ev
    let (gs, P2) := P1.readPacket e r s fs (evs.drop 1)
    (g.toList ++ gs, P2)

/-- A contribution enters its entry; the last expected one sends the sum. One that the checks have cut before its data is
discarded, and its key does not complete (R244, R251). -/
def Package.combine (P : Package) (e : Env) (k port : Nat) (reads : List HopEvent) : Package :=
  let r := P.rtrOf k
  match P.waitingRed e r port with
  | none => P
  | some (s, fs) =>
    let (gs, P1) := P.readPacket e r s fs reads
    if gs.length < 3 then P1
    else if !pktPoison gs && !ecrcGood gs then P1.count (P.eventBole r) cECRC 1
    else match redOf gs with
      | none => P1
      | some (key, b) =>
        match (P.rtr r).combAt key with
        | none => P
        | some i =>
          let c : Comb := match (P.rtr r).comb.get none i with
            | some c => { c with parts := c.parts ++ [(port, b)] }
            | none => { key := key, expect := P.expected e k b.set key.dstX key.dstY, parts := [(port, b)] }
          if c.expect.all fun q => c.parts.any fun x : Nat × RedBody => x.1 == q then
            (P1.updRtr r fun R => { R with comb := R.comb.set i none }).sendComb e k c false
          else P1.updRtr r fun R => { R with comb := R.comb.set i (some c) }

def execReduceCombine (p : PkgId) (k : BoleIx) (port : Port) (s : State) (reads : List HopEvent := []) :
    Host.Outcome State Fault Refusal :=
  .next (s.onLive p fun P => P.combine (s.env p) k (Port.num port) reads)

/-- Age of an entry's oldest contribution at a tick (R239). -/
def Comb.age (c : Comb) (tick : Nat) : Nat := (c.parts.map fun x : Nat × RedBody => subMod 4 tick x.2.age).foldl max 0
def Comb.fast (c : Comb) : Bool := match c.parts with | (_, b) :: _ => b.fast | [] => false

def execCombineFlush (p : PkgId) (k : BoleIx) (entry : Fin 64) (s : State) : Host.Outcome State Fault Refusal :=
  .next (s.onLive p fun P =>
    let r := P.rtrOf k
    match (P.rtr r).comb.get none entry with
    | some c =>
      if c.fast ∧ c.age P.tick = 1 then
        ((P.updRtr r fun R => { R with comb := R.comb.set entry none }).sendComb (s.env p) k c true).count k cCOMBFLUSH
      else P
    | none => P)

def execCombineExpire (p : PkgId) (k : BoleIx) (entry : Fin 64) (s : State) : Host.Outcome State Fault Refusal :=
  .next (s.onLive p fun P =>
    let r := P.rtrOf k
    match (P.rtr r).comb.get none entry with
    | some c =>
      if c.fast = false ∧ c.age P.tick = 2 then
        (P.updRtr r fun R => { R with comb := R.comb.set entry none }).count k cCOMBEXPIRED
      else P
    | none => P)

/-! ### The root (R240, R330) -/

/-- The running NI-executor operation that a key belongs to at its root. -/
def Package.redOwner (P : Package) (k : Nat) (key : RedKey) : Option CollOp :=
  (P.coll k).ops.find? fun o : CollOp =>
    o.started && !((P.coll k).group o.group).exec && decide ((o.opc = 4 ∨ o.opc = 5 ∨ o.opc = 6) ∧ o.rtag = key.rtag)

/-- Landing zone of a key: in the operation's SCRATCH, by piece, or at LOCAL. -/
def Package.zoneOf (P : Package) (k : Nat) (key : RedKey) (b : RedBody) : Nat :=
  match P.redOwner k key with
  | some o => o.scratch + key.chunk % (o.w * (P.chunkCtx k o).ppc) * 256
  | none => b.loc

def Package.writeIf (P : Package) (k a : Nat) (bs : List Byte) : Package := if P.memOk k a bs.length then P.memWrite k a bs else P

/-- A piece has landed at the root of its chunk. Its key's flag has counted in the chunk counter, which stood at ctr before.
With the last one the chunk's flag follows; that of an ALLREDUCE waits for the triggered multicast (R330, R331). -/
def Package.pieceLanded (P : Package) (e : Env) (k : Nat) (o : CollOp) (piece status ctr : Nat) : Package :=
  let c := P.chunkCtx k o
  let i := piece / c.ppc
  let (n, st, thresh) := o.landed.get (0, 0, ctr + c.pieces i) i
  let P1 := P.updColl k fun q => q.updOp o.group fun o => { o with landed := o.landed.set i (n + 1, st ||| status, thresh) }
  if n + 1 = c.pieces i ∧ o.opc ≠ 5 then (P1.writeFlag k o i (st ||| status)).collCheck e k o.group else P1

/-- The sum at the root with one more arrival: the zone holds its data. -/
def Package.rootFold (P : Package) (k : Nat) (t : RedRoot) (b : RedBody) : RedBody :=
  let size := redSize t.first.fmt t.first.wide
  let held := (P.memRead k t.zone (size * (t.first.elems + 1))).1
  ({ t.first with data := held, status := t.status, contrib := t.contrib } : RedBody).fold P.tick b.enter

/-- The key is complete: the sum rounded at LOCAL, then the flag. -/
def Package.rootDone (P : Package) (e : Env) (k : Nat) (key : RedKey) (b : RedBody) : Package :=
  let wire := elemsOf (redSize b.fmt b.wide) (b.elems + 1) b.data
  let out := bytesOf (redSize b.fmt false) (if b.wide then wire.map (narrow b.fmt) else wire)
  let P1 := P.writeIf k b.loc out
  let P2 := if b.flag = 0 then P1 else P1.recordWrite k b.flag (leBytes 3 key.chunk ++ leBytes 1 b.status ++ leBytes 4 b.contrib)
  match P.redOwner k key with
  | some o => P2.pieceLanded e k o key.chunk (b.status &&& 3)
      ((P.coll k).ctr.get 0 (Config.chunkCtr o.group (key.chunk / (P.chunkCtx k o).ppc) % 256))
  | none => P2

/-- An arrival for a key at its root, which adds to the zone whenever it comes (R240). -/
def Package.rootTake (P : Package) (e : Env) (k : Nat) (key : RedKey) (b0 : RedBody) : Package :=
  let roots := (P.bole k).ni.roots
  let (b, zone) := match roots.find? fun t : RedRoot => t.key == key with
    | some t => (P.rootFold k t b0, t.zone)
    | none => (b0.enter, P.zoneOf k key b0)
  let rest := roots.filter fun t : RedRoot => t.key != key
  let P1 := P.writeIf k zone (b.data.take (redSize b.fmt b.wide * (b.elems + 1)))
  if b.set.size ≤ b.contrib then (P1.updNi k fun n => { n with roots := rest }).rootDone e k key b
  else P1.updNi k fun n => { n with
    roots := rest ++ [{ key := key, contrib := b.contrib, status := b.status, first := { b with data := [] }, zone := zone }] }

def Package.rootLand (P : Package) (e : Env) (k : Nat) : Package :=
  match (P.bole k).ni.takeBy (fun h fs => decide (h.op = .reduce) && !isMack h fs) with
  | none => P
  | some (h, fs, n) =>
    let P1 := P.updNi k fun _ => n
    if malformed .reduce fs then P1.updNi k fun n => n.badPacket h
    else if !pktPoison fs && !ecrcGood fs then P1.count k cECRC
    else match redOf fs with
      | none => P1
      | some (key, b) => P1.rootTake e k key b

def execReduceRootLand (p : PkgId) (k : BoleIx) (s : State) : Host.Outcome State Fault Refusal :=
  .next (s.onBole p k fun e P => P.rootLand e k)

end Sys2Proof.Machine
end

