-- ==== Sys2Proof/Machine/Sparse.lean ====
section
/-! DEFINITION. Sparse matrix steps and compressing stores: rows MATRIX_STEP to STORE_VALUE (R104 to R121, R126, R127). -/

namespace Sys2Proof

def DType.code : DType → Nat
  | .e4m3 => 1
  | .e5m2 => 2
  | .bf16 => 3

/-- Element size in bytes. -/
def DType.es : DType → Nat
  | .bf16 => 2
  | _ => 1

/-- Is an element zero but for its sign (R121)? -/
def DType.isZero (d : DType) (v : Nat) : Bool := v % 2 ^ (8 * d.es - 1) == 0

def DType.maxK : DType → Nat
  | .bf16 => 2048
  | _ => 4096

/-- Bytes of one unit's record: none in the dense format (R109, R111). -/
def SpFmt.recSize : SpFmt → Nat
  | .dense => 0
  | .bitmap => 16
  | .two4 => 8

/-- Values that a unit's staged value area holds. -/
def SpFmt.perUnit : SpFmt → Nat
  | .two4 => 32
  | _ => 64

def MatStep.chunks (m : MatStep) : Nat := m.k / 64
/-- Number of unit (i, c) in a row-major set of records. -/
def MatStep.unitAt (m : MatStep) (i c : Nat) : Nat := i * m.stride + c

/-! ### Records (Table 5.3, R111) -/

/-- BITMAP, VOFF and COUNT of a block record. -/
def recBitmap (r : List Byte) : Nat := fld r 0 8
def recVoff (r : List Byte) : Nat := fld r 8 4
def recCount (r : List Byte) : Nat := bits (fld r 12 1) 6 0
def recReserved (r : List Byte) : Bool := bitAt (fld r 12 1) 7 || fld r 13 3 != 0

/-- Set bits of a bitmap, ascending. -/
def setBits (w : Nat) : List Nat := (List.range 64).filter fun j => bitAt w j

/-- Columns within the chunk that a 2:4 word stores, in the order of its values (R111). -/
def two4Cols (w : Nat) : List Nat :=
  (List.range 16).flatMap fun g => [4 * g + bits w (4 * g + 1) (4 * g), 4 * g + bits w (4 * g + 3) (4 * g + 2)]

/-- Failure of a record, as its code of Table 5.4; 0 for none. DESIGN CHOICE (log 48): of several failures in one record
the lowest code is recorded. -/
def recCheck (fmt : SpFmt) (es vasize : Nat) (r : List Byte) : Nat :=
  match fmt with
  | .dense => 0
  | .bitmap =>
    if recCount r ≠ (setBits (recBitmap r)).length then 1
    else if recVoff r % es ≠ 0 then 2
    else if vasize < recVoff r + recCount r * es then 3
    else if recReserved r then 4
    else 0
  | .two4 =>
    let w := fld r 0 8
    if (List.range 16).any fun g => decide (bits w (4 * g + 3) (4 * g + 2) ≤ bits w (4 * g + 1) (4 * g)) then 5 else 0

/-- Units of a step, ascending (i, c). -/
def MatStep.units (m : MatStep) : List (Nat × Nat) :=
  (List.range 64).flatMap fun i => (List.range m.chunks).map fun c => (i, c)

/-! ### Staging (R104 to R106, R118, R119) -/

/-- Are the operands ones that Table 5.1 allows? -/
def MatStep.operandsOk (m : MatStep) : Bool :=
  decide (0 < m.k ∧ m.k % 64 = 0 ∧ m.k ≤ m.dtype.maxK ∧ m.chunks ≤ m.stride)

/-- Is the value area of R119 empty, so that no value can be read from it? -/
def MatStep.noArea (m : MatStep) : Bool := decide (m.fmt = .bitmap) && !m.check && m.vasize == 0

def MatStep.aligned (m : MatStep) : Bool := decide (m.fmt = .dense ∨ m.mdAddr % m.fmt.recSize = 0)

/-- Leaf address and length of the records of row i. -/
def MatStep.recRow (m : MatStep) (i : Nat) : Nat × Nat := (m.mdAddr + m.fmt.recSize * m.unitAt i 0, m.fmt.recSize * m.chunks)

/-- Address of byte b of value n of a unit with this record. -/
def MatStep.valAddr (m : MatStep) (i c : Nat) (r : List Byte) (n b : Nat) : Nat :=
  let es := m.dtype.es
  match m.fmt with
  | .dense => m.val + 64 * m.unitAt i c * es + n * es + b
  | .bitmap =>
    if m.check then m.val + recVoff r + n * es + b else m.val + (recVoff r + n * es + b) % m.vasize
  | .two4 => m.val + 32 * m.unitAt i c * es + n * es + b

/-- Values that a unit stores. -/
def MatStep.stored (m : MatStep) (r : List Byte) : Nat :=
  match m.fmt with
  | .dense => 64
  | .bitmap => (setBits (recBitmap r)).length
  | .two4 => 32

/-- Addresses of every value byte of a unit, in order; none in an empty value area. -/
def MatStep.valBytes (m : MatStep) (i c : Nat) (r : List Byte) : List Nat :=
  if m.noArea then []
  else (List.range (m.stored r)).flatMap fun n => (List.range m.dtype.es).map fun b => m.valAddr i c r n b

/-- A unit's value bytes, from those read of the value area; free ones where that area is empty (log 48). -/
def MatStep.unitVals (m : MatStep) (r read : List Byte) : List Byte :=
  if m.noArea then (List.range (m.stored r * m.dtype.es)).map fun b => Config.noArea (recVoff r + b) else read

/-- Record u of the staged records. -/
def recAt (fmt : SpFmt) (recs : List Byte) (u : Nat) : List Byte := (recs.drop (fmt.recSize * u)).take fmt.recSize

end Sys2Proof

namespace Sys2Proof.Machine

def spSTEPS := 0
def spWALK := 1
def spSTEAL := 2
def spCHECKFAIL := 3

def Sparse.count (x : Sparse) (j n : Nat) : Sparse := { x with cnt := x.cnt.upd 0 j fun v => sat32 v n }
def Package.updSp (P : Package) (k : Nat) (f : Sparse → Sparse) : Package := P.updBole k fun b => { b with sp := f b.sp }

/-- Read single bytes of leaf memory, in the order given; the granules that they touch are checked as reads. -/
def Package.leafBytes (P : Package) (k : Nat) (as : List Nat) : List Byte × Bool × Package :=
  let gs := (as.map fun a => a / 64).dedup
  let (m, e) := (P.bole k).leaf.mem.checkAll 64 gs
  (as.map fun a => Memory.read m.bytes a, gs.any fun g => m.poison.contains g,
    P.updBole k fun b => ({ b with leaf := { b.leaf with mem := m } } : Bole).memEv e)

/-- Record the first sparse-metadata error, count it, and fault the step (R118, R127). -/
def Package.sparseFault (P : Package) (k code i c : Nat) : Package :=
  let P1 := P.updSp k fun x =>
    let x1 := x.count spCHECKFAIL 1
    if x1.faultV then x1
    else { x1 with faultV := true, faultCode := code, faultRow := i, faultChunk := c % 64, faultStep := x.stepNo % 65536 }
  let x := (P1.bole k).sp
  P1.fault k fcSparse (1 + 2 * x.faultCode + 2 ^ 4 * x.faultRow + 2 ^ 10 * x.faultChunk + 2 ^ 16 * x.faultStep)

/-- Stage a step whose operands stand: records, then values, then the panel. Nothing is staged when a check fails. DESIGN
CHOICE (log 48): an address or poison fault of the records goes before a sparse-metadata error of the same step. -/
def Package.stage (P : Package) (k : Nat) (m : MatStep) : Package :=
  let es := m.dtype.es
  let recAddrs := (List.range 64).flatMap fun i => (List.range (m.recRow i).2).map fun j => (m.recRow i).1 + j
  if (recAddrs.any fun a => decide (leafTop ≤ a)) || decide (leafTop < m.panel + 64 * m.k * es)
      || decide (leafTop < m.cin + 16384) || decide (leafTop < m.dest + 16384) then P.fault k fcAddress m.mdAddr
  else
    let (recs, bad1, P1) := P.leafBytes k recAddrs
    let us := m.units.zipIdx.map fun (u, n) => (u.1, u.2, recAt m.fmt recs n)
    let failed := if m.check then us.find? fun u => recCheck m.fmt es m.vasize u.2.2 != 0 else none
    if bad1 then P1.fault k fcMemPoison m.mdAddr
    else match failed with
      | some (i, c, r) => P1.sparseFault k (recCheck m.fmt es m.vasize r) i c
      | none =>
        let va := us.map fun (i, c, r) => m.valBytes i c r
        if va.flatten.any fun a => decide (leafTop ≤ a) then P1.fault k fcAddress m.val
        else
          let (vs, bad2, P2) := P1.leafBytes k va.flatten
          let (panel, bad3, P3) := P2.leafRead k m.panel (64 * m.k * es)
          if bad2 ∨ bad3 then P3.fault k fcMemPoison (if bad2 then m.val else m.panel)
          else
            let cut := ((us.zip va).foldl (fun (acc : List Byte × List Byte) x =>
              (acc.1.drop x.2.length,
                acc.2 ++ padTo (m.fmt.perUnit * es) (m.unitVals x.1.2.2 (acc.1.take x.2.length)))) (vs, [])).2
            P3.updSp k fun x => { x with staged := some { m := m, panel := panel, recs := recs, vals := cut, tile := [] } }

/-- A step given to the front end. DESIGN CHOICE (log 48): the bole's step counter of R127 is a counter of 32 bits of its
own, whose first step is number 1 and which no tick clears; it and SP_CNT_STEPS count a step when it is given, a step that
then faults included. -/
def Package.matStep (P : Package) (k : Nat) (m : MatStep) : Package :=
  if (P.bole k).sp.staged.isSome then P
  else
    let P1 := P.updSp k fun x => { x with stepNo := (x.stepNo + 1) % 2 ^ 32 }
    let P2 := P1.updSp k fun x => x.count spSTEPS 1
    if !m.operandsOk then P2.fault k fcBadOperand m.mdAddr
    else if !m.aligned then P2.fault k fcAlignment m.mdAddr
    else P2.stage k m

def execMatrixStep (p : PkgId) (k : BoleIx) (m : MatStep) (contested : List BankAsk) (s : State) :
    Host.Outcome State Fault Refusal :=
  .next (s.onProg p k fun _ P => (P.contestPipe k (List.range 32) contested).matStep k m)

/-! ### Walk (R114 to R116) -/

/-- Element of the panel: row k, column n. -/
def SpStep.panelEl (t : SpStep) (row n : Nat) : Nat := fld t.panel ((64 * row + n) * t.m.dtype.es) t.m.dtype.es

/-- Occupancy bitmap of chunk c. DESIGN CHOICE (log 48): an element of B that is zero but for its sign counts as zero. -/
def SpStep.occ (t : SpStep) (c j : Nat) : Bool := (List.range 64).any fun n => !t.m.dtype.isZero (t.panelEl (64 * c + j) n)

def SpStep.unitNo (t : SpStep) (i c : Nat) : Nat := i * t.m.chunks + c
/-- Value n of a unit. -/
def SpStep.valEl (t : SpStep) (u n : Nat) : Nat :=
  fld t.vals (u * t.m.fmt.perUnit * t.m.dtype.es + n * t.m.dtype.es) t.m.dtype.es

/-- Columns of the chunk that a unit multiplies, with the number of its value, in the order of the walk. -/
def SpStep.terms (t : SpStep) (i c : Nat) : List (Nat × Nat) :=
  let r := recAt t.m.fmt t.recs (t.unitNo i c)
  match t.m.fmt with
  | .dense => (List.range 64).map fun j => (j, j)
  | .two4 => (two4Cols (fld r 0 8)).zipIdx
  | .bitmap => (setBits (recBitmap r)).zipIdx.filter fun x : Nat × Nat => t.occ c x.1

/-- The 64-wide partial of a unit, from an initial row. -/
def SpStep.partialFrom (t : SpStep) (i c : Nat) (row : List (BitVec 32)) : List (BitVec 32) :=
  (t.terms i c).foldl (fun row (x : Nat × Nat) =>
    row.zipIdx.map fun (a, n) => Config.fmac a (t.valEl (t.unitNo i c) x.2) (t.panelEl (64 * c + x.1) n) t.m.dtype.code) row

def SpStep.row (t : SpStep) (i : Nat) : List (BitVec 32) := (t.tile.drop (64 * i)).take 64
def SpStep.setRow (t : SpStep) (i : Nat) (row : List (BitVec 32)) : SpStep :=
  { t with tile := t.tile.take (64 * i) ++ row ++ t.tile.drop (64 * i + 64) }

/-- A unit's last cycle: its partial is added into its row (R115). -/
def SpStep.land (t : SpStep) (u : SpUnit) : SpStep :=
  t.setRow u.i (((t.row u.i).zip (t.partialFrom u.i u.c (List.replicate 64 0))).map fun (a, b) => Config.facc a b)

def SpStep.cost (t : SpStep) (i c : Nat) : Nat := ceilDiv (t.terms i c).length (4 / t.m.dtype.es)

/-- The lanes' queues when they are built (R114, R115). -/
def SpStep.buildLanes (t : SpStep) : List SpLane :=
  (List.range 16).map fun l =>
    { q := ((List.range 4).flatMap fun r => (List.range t.m.chunks).filterMap fun c =>
        let n := t.cost (4 * l + r) c
        if n = 0 then none else some { i := 4 * l + r, c := c, cost := n }) }

/-- Read an FP32 tile. -/
def tileOf (bs : List Byte) : List (BitVec 32) := (List.range 4096).map fun n => BitVec.ofNat 32 (fld bs (4 * n) 4)
def tileBytes (t : List (BitVec 32)) : List Byte := t.flatMap fun w => leBytes 4 w.toNat

/-- The step begins once the one before it has finished and its own staging is done (R105); C is read now. -/
def Package.matIssue (P : Package) (k : Nat) : Package :=
  let x := (P.bole k).sp
  match x.cur, x.staged with
  | none, some t =>
    let (bs, bad, P1) := P.leafRead k t.m.cin 16384
    if bad then (P1.updSp k fun x => { x with staged := none }).fault k fcMemPoison t.m.cin
    else
      let t1 : SpStep := { t with tile := tileOf bs }
      P1.updSp k fun x => { x with
        staged := none
        cur := some { t1 with lanes := if t1.m.fmt = .bitmap then t1.buildLanes else [] } }
  | _, _ => P

def execMatrixStepIssue (p : PkgId) (k : BoleIx) (s : State) : Host.Outcome State Fault Refusal :=
  .next (s.onProg p k fun _ P => P.matIssue k)

def SpLane.start (L : SpLane) : SpLane :=
  match L.cur, L.q with
  | none, u :: us => { L with q := us, cur := some (u, u.cost) }
  | _, _ => L

/-- A lane at an epoch: arrivals kept, units for the previous and the next lane (R116), and its new queue. -/
structure SpSteal where
  q : List SpUnit
  toPrev : List SpUnit
  toNext : List SpUnit
  deriving DecidableEq, Repr

def SpSteal.arrive (z : SpSteal) (up : Bool) (u : SpUnit) : SpSteal :=
  if z.q.length < 2 ∨ 8 ≤ u.hops then { z with q := z.q ++ [u] }
  else if up then { z with toNext := z.toNext ++ [u] }
  else { z with toPrev := z.toPrev ++ [u] }

/-- Surplus units in turn from the tail, for the previous lane and the next one by turns: a unit whose direction has no
room stays queued, behind the units before it (DEDUCED, log 32). stay holds those that stay, in queue order. -/
def SpSteal.surplus : Nat → Bool → List SpUnit → SpSteal → SpSteal
  | 0, _, stay, z => { z with q := z.q ++ stay }
  | n + 1, prev, stay, z =>
    match z.q.getLast? with
    | none => { z with q := stay }
    | some u =>
      let z1 : SpSteal := { z with q := z.q.dropLast }
      if prev ∧ z.toPrev.length < 8 then SpSteal.surplus n false stay { z1 with toPrev := z.toPrev ++ [u] }
      else if !prev ∧ z.toNext.length < 8 then SpSteal.surplus n true stay { z1 with toNext := z.toNext ++ [u] }
      else SpSteal.surplus n (!prev) (u :: stay) z1

/-- A forwarded unit past the eighth of its direction stays queued at the lane. -/
def SpSteal.cap (z : SpSteal) : SpSteal :=
  { q := z.q ++ z.toPrev.drop 8 ++ z.toNext.drop 8, toPrev := z.toPrev.take 8, toNext := z.toNext.take 8 }

def SpLane.steal (L : SpLane) : SpSteal :=
  let z0 : SpSteal := { q := L.q, toPrev := [], toNext := [] }
  let z1 := L.fromPrev.foldl (fun z u => z.arrive true u) z0
  let z2 := (L.fromNext.foldl (fun z u => z.arrive false u) z1).cap
  z2.surplus (z2.q.length - 2) true []

/-- Units that make a hop. DESIGN CHOICE (log 48): a unit's hops add up over all its time on the ring. -/
def hopped (us : List SpUnit) : List SpUnit := us.map fun u => { u with hops := u.hops + 1 }

/-- One epoch's stealing over the 16 lanes, and the units put on the ring. DESIGN CHOICE (log 48): a forwarded unit counts
in SP_CNT_STEAL at every lane that puts it on. -/
def stealAll (ls : List SpLane) : List SpLane × Nat :=
  let zs := ls.map SpLane.steal
  let at_ (l : Nat) : SpSteal := zs.getD (l % 16) { q := [], toPrev := [], toNext := [] }
  ((ls.zipIdx.map fun (L, l) => { L with q := (at_ l).q, fromPrev := hopped (at_ (l + 15)).toNext,
                                         fromNext := hopped (at_ (l + 1)).toPrev }),
    (zs.map fun z => z.toPrev.length + z.toNext.length).sum)

def SpLane.done (L : SpLane) : Bool := L.q.isEmpty && L.cur.isNone && L.fromPrev.isEmpty && L.fromNext.isEmpty

def SpStep.walked (t : SpStep) : Bool := t.lanes.all SpLane.done

/-- One walk cycle of every lane: a lane starts its head unit when idle, and a unit in its last cycle lands, in ascending
lane number (R115). -/
def SpStep.cycle (t : SpStep) : SpStep :=
  let ls := t.lanes.map SpLane.start
  let t1 := (ls.filterMap fun L => match L.cur with | some (u, 1) => some u | _ => none).foldl SpStep.land t
  { t1 with walk := t1.walk + 1, lanes := ls.map fun L => match L.cur with
      | some (u, n + 2) => { L with cur := some (u, n + 1) }
      | _ => { L with cur := none } }

/-- Up to n walk cycles, fewer when the walk ends. -/
def SpStep.walkN : Nat → SpStep → SpStep
  | 0, t => t
  | n + 1, t => if t.walked then t else t.cycle.walkN n

/-- An epoch: each lane's first unit starts, units move, then eight walk cycles. -/
def SpStep.epoch (t : SpStep) : SpStep × Nat :=
  let (ls, moved) := stealAll (t.lanes.map SpLane.start)
  (({ t with lanes := ls } : SpStep).walkN 8, moved)

def Sparse.epoch (x : Sparse) : Sparse :=
  match x.cur with
  | some t =>
    if t.walked then x
    else
      let (t1, moved) := t.epoch
      (({ x with cur := some t1 } : Sparse).count spWALK (t1.walk - t.walk)).count spSTEAL moved
  | none => x

def execStealEpoch (p : PkgId) (k : BoleIx) (s : State) : Host.Outcome State Fault Refusal :=
  .next (s.onProg p k fun _ P => P.updSp k Sparse.epoch)

/-- The array of a dense or 2:4 step: every row takes its products in ascending order (R113). -/
def SpStep.array (t : SpStep) : SpStep :=
  t.m.units.foldl (fun t (u : Nat × Nat) => t.setRow u.1 (t.partialFrom u.1 u.2 (t.row u.1))) t

/-- The output tile is written once the walk or the array is done (R107). -/
def Package.matEnd (P : Package) (k : Nat) : Package :=
  match (P.bole k).sp.cur with
  | none => P
  | some t =>
    if !t.walked then P
    else
      let t1 := if t.m.fmt = .bitmap then t else t.array
      (P.updSp k fun x => { x with cur := none }).leafWrite k t.m.dest (tileBytes t1.tile)

def execMatrixStepEnd (p : PkgId) (k : BoleIx) (s : State) : Host.Outcome State Fault Refusal :=
  .next (s.onProg p k fun _ P => P.matEnd k)

/-! ### Compressing stores (R121, R122, Table 5.5) -/

/-- Is an FP32 element zero but for its sign? -/
def fp32Zero (w : Nat) : Bool := w % 2 ^ 31 == 0

/-- A value as its bytes. -/
def valBytes (d : DType) (w : Nat) : List Byte := leBytes d.es (Config.toDtype (BitVec.ofNat 32 w) d.code)

/-- Bytes that a mask-mode store writes for one unit, by address: the values that the set stores (Table 5.5). el gives the
element of column j of the chunk. -/
def maskUnit (c : CStore) (u : Nat) (r : List Byte) (el : Nat → Nat) : List (Nat × List Byte) :=
  let es := c.dtype.es
  let cols := if c.fmt = .two4 then two4Cols (fld r 0 8) else setBits (recBitmap r)
  let base := if c.fmt = .two4 then c.val + 32 * u * es else c.val + recVoff r
  cols.zipIdx.map fun (j, n) => (base + n * es, valBytes c.dtype (el j))

/-- Writes of a store, in order; an address past the leaf memory is an address error and nothing is written. The store's
completion is visible after them. -/
def Package.cwrites (P : Package) (k : Nat) (ws : List (Nat × List Byte)) : Package :=
  match ws.find? fun w : Nat × List Byte => decide (leafTop < w.1 + w.2.length) with
  | some w => P.fault k fcAddress w.1
  | none => (ws.foldl (fun P w => P.leafWrite k w.1 w.2) P).updNi k fun n => n.newOp 0

/-- Units of a set of rows by chunks, ascending. -/
def setUnits (rows chunks : Nat) : List (Nat × Nat) :=
  (List.range rows).flatMap fun i => (List.range chunks).map fun ch => (i, ch)

/-- The block record of a unit: its bitmap, VOFF and COUNT (Table 5.3). -/
def blockRecord (js : List Nat) (voff : Nat) : List Byte :=
  leBytes 8 (js.map fun j => 2 ^ j).sum ++ leBytes 4 voff ++ leBytes 1 js.length ++ leBytes 3 0

/-- Columns of a unit whose elements are not zero (R121). DESIGN CHOICE (log 48): the element that is tested is the FP32
one, before it is rounded to DTYPE. -/
def occupied (el : Nat → Nat → Nat) (u : Nat × Nat) : List Nat :=
  (List.range 64).filter fun j => !fp32Zero (el u.1 (64 * u.2 + j))

/-- Writes of a value-mode store from this value offset on: each unit's record, then its values (Table 5.5). -/
def valueWrites (c : CStore) (el : Nat → Nat → Nat) : Nat → List (Nat × Nat) → List (Nat × List Byte)
  | _, [] => []
  | off, u :: us =>
    let js := occupied el u
    (c.mdAddr + 16 * (u.1 * c.stride + u.2), blockRecord js off) ::
      ((js.zipIdx.map fun (j, i) => (c.val + off + i * c.dtype.es, valBytes c.dtype (el u.1 (64 * u.2 + j)))) ++
        valueWrites c el (off + js.length * c.dtype.es) us)

/-- Addresses of the record bytes that a mask-mode store reads. -/
def maskRecAddrs (c : CStore) (us : List (Nat × Nat)) : List Nat :=
  us.flatMap fun u => (List.range c.fmt.recSize).map fun b => c.mdAddr + c.fmt.recSize * (u.1 * c.stride + u.2) + b

/-- Writes of a mask-mode store, from the records it has read (Table 5.5). -/
def maskWrites (c : CStore) (el : Nat → Nat → Nat) (us : List (Nat × Nat)) (rs : List Byte) : List (Nat × List Byte) :=
  us.zipIdx.flatMap fun (u, i) => maskUnit c (u.1 * c.stride + u.2) (recAt c.fmt rs i) fun j => el u.1 (64 * u.2 + j)

/-- End of the last record that a store of rows by chunks units reaches. -/
def storeRecEnd (c : CStore) (rows chunks : Nat) : Nat :=
  if rows = 0 ∨ chunks = 0 then 0 else c.mdAddr + c.fmt.recSize * ((rows - 1) * c.stride + chunks)

/-- Element (i, j) of the set, from the bytes of the tile. -/
def cstoreEl (c : CStore) (transposed : Bool) (bs : List Byte) (i j : Nat) : Nat :=
  fld bs (4 * (if transposed then j * c.cols + i else i * c.cols + j)) 4

/-- Read the tile: rows and columns of the set, and its elements. -/
def Package.cstore (P : Package) (k : Nat) (c : CStore) (transposed value : Bool) : Package :=
  let (sr, sc) := if transposed then (c.cols, c.rows) else (c.rows, c.cols)
  let chunks := sc / 64
  let n := c.rows * c.cols
  if c.fmt = .dense ∨ (value ∧ c.fmt ≠ .bitmap) ∨ sc % 64 ≠ 0 ∨ c.stride < chunks then P.fault k fcBadOperand c.mdAddr
  else if c.mdAddr % c.fmt.recSize ≠ 0 then P.fault k fcAlignment c.mdAddr
  else if leafTop < c.tile + 4 * n ∨ leafTop < storeRecEnd c sr chunks then P.fault k fcAddress c.tile
  else
    let (bs, bad, P1) := P.leafRead k c.tile (4 * n)
    let us := setUnits sr chunks
    if bad then P1.fault k fcMemPoison c.tile
    else if value then P1.cwrites k (valueWrites c (cstoreEl c transposed bs) c.voff us)
    else
      let (rs, bad2, P2) := P1.leafBytes k (maskRecAddrs c us)
      if bad2 then P2.fault k fcMemPoison c.mdAddr
      else P2.cwrites k (maskWrites c (cstoreEl c transposed bs) us rs)

def execStoreMask (p : PkgId) (k : BoleIx) (c : CStore) (s : State) : Host.Outcome State Fault Refusal :=
  .next (s.onProg p k fun _ P => P.cstore k c false false)

def execStoreMaskTransposed (p : PkgId) (k : BoleIx) (c : CStore) (s : State) : Host.Outcome State Fault Refusal :=
  .next (s.onProg p k fun _ P => P.cstore k c true false)

def execStoreValue (p : PkgId) (k : BoleIx) (c : CStore) (s : State) : Host.Outcome State Fault Refusal :=
  .next (s.onProg p k fun _ P => P.cstore k c false true)

end Sys2Proof.Machine
end

