-- ==== Sys2Proof/Machine/Resets.lean ====
section
/-! DEFINITION. Resets: rows PACKAGE_COLD_RESET to BOLE_RESET (R36, R377, R419 to R425). -/

namespace Sys2Proof.Machine

/-- A change of a package that is powered, with the loss notices of its glades (R421). -/
def State.pkgReset (s : State) (p : Nat) (g : Package → Package) : State :=
  if (s.pkg p).powered then (s.lossAll p).updPkg p g else s

def execPackageColdReset (p : PkgId) (s : State) : Host.Outcome State Fault Refusal :=
  .next (s.pkgReset p (Package.coldStart s.now))

def execPackageWarmReset (p : PkgId) (s : State) : Host.Outcome State Fault Refusal :=
  .next (s.pkgReset p Package.warmClear)

/-! ### Function resets (R420, R424) -/

/-- A function enters its reset: it issues nothing more, and completions of its reads are late. -/
def Package.enterReset (P : Package) (f now : Nat) : Package :=
  ((P.failOvf f fcOvfUnavailable).dropReads f).updFn f fun F => { F with inReset := true, flrStart := some now }

/-- A function reset: it runs the abort of the function's glade, or takes over one that runs, and then clears the
function. With no bole in the abort's scope, or with step 5 of the abort behind it, it clears the function at once. -/
def State.functionReset (s : State) (p f : Nat) : State :=
  let P := s.pkg p
  if (P.fn f).inReset then s
  else
    let s1 := s.updPkg p fun P => P.enterReset f s.now
    if (P.scope f).isEmpty || ((P.fn f).abort.state == 1 && (P.fn f).abort.collDone) then s1.updPkg p fun P => P.clearFn f
    else if (P.fn f).abort.state = 1 then s1
    else s1.startAbort p f

def execFunctionLevelReset (p : PkgId) (f : FnIx) (s : State) : Host.Outcome State Fault Refusal :=
  .next (if (s.pkg p).live then s.functionReset p f else s)

/-- 1.8 ms in CKM cycles (R425). -/
def flrBound : Nat := 2700000

def Func.flrLate (F : Func) (now : Nat) : Bool :=
  F.inReset && (match F.flrStart with | some t => decide (t + flrBound ≤ now) | none => false)

def execFlrEscalate (p : PkgId) (f : FnIx) (unconfirmed : BitVec 64) (s : State) : Host.Outcome State Fault Refusal :=
  .next (if (s.pkg p).live && ((s.pkg p).fn f).flrLate s.now then s.escalate p f unconfirmed else s)

/-- The Root's PCIe link is lost, and every function is reset (Table 16.7). -/
def execConventionalReset (p : PkgId) (s : State) : Host.Outcome State Fault Refusal :=
  let s1 := s.onPowered p fun P => P.updRt fun r => { r with linkUp := false }
  .next (if (s.pkg p).live then (List.range 17).foldl (fun s f => s.functionReset p f) s1 else s1)

/-- The Root's link has trained at a width and a rate (R377). -/
def execPcieLinkUp (p : PkgId) (width speed : Nat) (s : State) : Host.Outcome State Fault Refusal :=
  .next (s.onPowered p fun P => P.updRt fun r => { r with linkUp := true, width := width % 64, speed := speed % 16 })

def execBoleReset (p : PkgId) (k : BoleIx) (s : State) : Host.Outcome State Fault Refusal :=
  .next (if (s.pkg p).live then s.resetBole p k else s)

end Sys2Proof.Machine
end

