-- ==== Sys2Proof/Machine/Replant.lean ====
section
/-! DEFINITION. Replants, the journal, the commit and sled service: rows GLADES_CREATE to SERVICE_SLED
(R143, R444 to R455). -/

namespace Sys2Proof

/-! ### Places of a glade -/

def GladeSpec.holds (g : GladeSpec) (x y : Nat) : Bool :=
  decide (g.x0 ≤ x ∧ x < g.x0 + g.w ∧ g.y0 ≤ y ∧ y < g.y0 + g.h)

/-- Least coordinates of a package by its logical key (R18). -/
def keyX (key : Nat) : Nat := 64 * (key / 64 % 8) + 8 * (key % 8)
def keyY (key : Nat) : Nat := 64 * (key / 512) + 8 * (key % 64 / 8)

/-- Does a glade hold a bole of the package with this logical key (State.logKey)? -/
def GladeSpec.touches (g : GladeSpec) (key : Nat) : Bool :=
  decide (g.x0 < keyX key + 8 ∧ keyX key < g.x0 + g.w ∧ g.y0 < keyY key + 8 ∧ keyY key < g.y0 + g.h)

def GladeSpec.overlaps (g k : GladeSpec) : Bool :=
  decide (g.x0 < k.x0 + k.w ∧ k.x0 < g.x0 + g.w ∧ g.y0 < k.y0 + k.h ∧ k.y0 < g.y0 + g.h)

/-- R141, and the tag's range (R142). -/
def GladeSpec.shapeOk (g : GladeSpec) (w h : Nat) : Bool :=
  decide (g.x0 % 2 = 0 ∧ g.y0 % 2 = 0 ∧ g.w % 2 = 0 ∧ g.h % 2 = 0 ∧ 2 ≤ g.w ∧ 2 ≤ g.h ∧ g.x0 + g.w ≤ 64 * w ∧
    g.y0 + g.h ≤ 64 * h ∧ 1 ≤ g.tag ∧ g.tag ≤ 32767)

def GladeSpec.place (g : GladeSpec) (key : Nat) : Option GladePkg := g.on.find? fun x : GladePkg => x.pkg == key

end Sys2Proof

namespace Sys2Proof.Machine

/-! ### Groves -/

def State.groveOf (s : State) (ld : Nat) : List Nat := (List.range 32).filter fun st => s.leadOf st == ld
def State.groveKeys (s : State) (ld : Nat) : List Nat :=
  (s.groveOf ld).flatMap fun st => (List.range 64).map fun n => 64 * st + n

/-- Packages of the Grove that run. -/
def State.groveLive (s : State) (ld : Nat) : List Nat :=
  (s.groveKeys ld).filter fun key => (s.pkg key).live && (s.pkg key).ready

/-- Every Rootstock of the Grove writes its copy of a record (R453). -/
def State.journalAll (s : State) (ld : Nat) (j : JRec) : State :=
  (s.groveOf ld).foldl (fun s st => s.updStand st fun r => { r with journal := r.journal ++ [j] }) s

def State.updGrove (s : State) (ld : Nat) (f : Rootstock → Rootstock) : State :=
  (s.groveOf ld).foldl (fun s st => s.updStand st f) s

/-! ### Tables of a generation (Table 17.3) -/

/-- The four boles that a link joins, two at each end (R143). -/
def Package.linkBoles (P : Package) (e : Env) (l : Nat) : List (Nat × Nat) :=
  let j := l % 4
  match l / 4 with
  | 0 => [0, 1].flatMap fun i => [(P.baseX + 2 * j + i, P.baseY), (P.baseX + 2 * j + i, ringStep (64 * e.h) P.baseY true)]
  | 1 => [0, 1].flatMap fun i =>
      [(P.baseX + 7, P.baseY + 2 * j + i), (ringStep (64 * e.w) (P.baseX + 7) false, P.baseY + 2 * j + i)]
  | 2 => [0, 1].flatMap fun i =>
      [(P.baseX + 2 * j + i, P.baseY + 7), (P.baseX + 2 * j + i, ringStep (64 * e.h) (P.baseY + 7) false)]
  | _ => [0, 1].flatMap fun i => [(P.baseX, P.baseY + 2 * j + i), (ringStep (64 * e.w) P.baseX true, P.baseY + 2 * j + i)]

def GladeSpec.rates (g : GladeSpec) : Rates := { cir := g.cir, pir := g.pir, cbs := g.cbs, pbs := g.pbs }

/-- Put a glade into a package's tables. A glade that holds the boles of a wrap link spans the dimension (R144). -/
def Package.plant (P : Package) (e : Env) (key : Nat) (t : GenTabs) (g : GladeSpec) : GenTabs :=
  let ks := (List.range 64).filter fun k => g.holds (P.boleX k) (P.boleY k)
  let ls := (List.range 16).filter fun l => (P.linkBoles e l).all fun c => g.holds c.1 c.2
  let ng : NiGlade := { x0 := g.x0, y0 := g.y0, w := g.w, h := g.h, tag := g.tag }
  let t1 : GenTabs := { t with
    ni := ks.foldl (fun m k => m.set k ng) t.ni
    subNi := ks.foldl (fun m k => m.set k (GladeSpec.rates g)) t.subNi
    owner := ls.foldl (fun m l => m.set l g.tag) t.owner
    subLk := ls.foldl (fun m l => m.set l (GladeSpec.rates g)) t.subLk }
  match g.place key with
  | some x => { t1 with
      vfGlade := t1.vfGlade.set x.vf g.tag
      west := t1.west.set (x.vf - 1) ⟨x.westBase, x.westSize⟩
      east := t1.east.set (x.vf - 1) ⟨x.eastBase, x.eastSize⟩
      budget := t1.budget.set x.vf x.budget
      engMap := x.rings.foldl (fun m er => m.set er.1 ⟨x.vf, er.2, true⟩) t1.engMap }
  | none => t1

/-- Take a glade out of a package's tables. -/
def uproot (t : GenTabs) (tag : Nat) : GenTabs :=
  let ks := (List.range 64).filter fun k => (t.ni.get {} k).tag == tag
  let ls := (List.range 16).filter fun l => t.owner.get 0 l == tag
  let vs := (List.range 16).filter fun i => t.vfGlade.get 0 (i + 1) == tag
  { t with
    ni := ks.foldl (fun m k => m.set k {}) t.ni
    subNi := ks.foldl (fun m k => m.set k {}) t.subNi
    owner := ls.foldl (fun m l => m.set l 0) t.owner
    subLk := ls.foldl (fun m l => m.set l {}) t.subLk
    vfGlade := vs.foldl (fun m i => m.set (i + 1) 0) t.vfGlade
    west := vs.foldl (fun m i => m.set i {}) t.west
    east := vs.foldl (fun m i => m.set i {}) t.east
    budget := vs.foldl (fun m i => m.set (i + 1) 0) t.budget
    engMap := (List.range 64).foldl (fun m x =>
      let c := m.get {} x
      if c.v && c.fn ≠ 0 && vs.contains (c.fn - 1) then m.set x {} else m) t.engMap }

/-- Positions that a package's defects take out of service (R439). -/
def Package.oosOf (P : Package) : BitVec 64 :=
  let two (kind : Nat) (c : Nat) : Bool := decide (2 ≤ ((List.range 9).filter fun r => P.hasDefect kind c r).length)
  let chans := ((List.range 9).filter fun ch => P.defects.any fun d : Defect => d.kind == 3 && d.row == ch).length
  if (List.range 8).any (two 1) ∨ 2 ≤ chans then BitVec.allOnes 64
  else
    let pair (c : Nat) : Bool := (List.range 9).any fun r => P.hasDefect 2 (2 * (c / 2)) r && P.hasDefect 2 (2 * (c / 2) + 1) r
    BitVec.ofNat 64 (((List.range 64).filter fun k => pair (k % 8)).map fun k => 2 ^ k).sum

/-- Positions to take out of service now: those, and each position whose bole has been found defective since the repair load
(R152, R439). -/
def Package.oosNow (P : Package) : BitVec 64 :=
  P.oosOf ||| BitVec.ofNat 64 (((List.range 64).filter fun k => P.hasDefect 1 (k % 8) (P.physRow (k % 8) (k / 8))).map
    fun k => 2 ^ k).sum

/-- The tables of a generation with these glades, written out for one package; the Root refuses a budget that would pass its
ceiling (R73). -/
def Package.tables (P : Package) (e : Env) (key gen : Nat) (gs : List GladeSpec) : GenTabs :=
  let t := gs.foldl (P.plant e key) { gen := gen, oos := P.oosOf }
  { t with budget := (budgetFit P.rt.ovfCeil t.budget).1 }

/-- BADCFG of the PF where the ceiling refuses one of the budgets of these glades (R73). -/
def Package.budgetNote (P : Package) (e : Env) (key : Nat) (gs : List GladeSpec) : Package :=
  if (budgetFit P.rt.ovfCeil (gs.foldl (P.plant e key) {}).budget).2 then P.updFn 0 fun F => { F with badCfg := true } else P

/-- The next generation: what is neither removed nor created stays as it is (Table 17.4, step 3). -/
def Package.nextTables (P : Package) (e : Env) (key : Nat) (R : Replant) : GenTabs :=
  { R.created.foldl (P.plant e key) (R.removed.foldl uproot P.comm) with
    gen := R.gen, oos := P.comm.oos ||| P.oosNow }

/-! ### What a new committed copy does (R212, R293, R381, R439, R449) -/

/-- A VF whose slot changes: FRESH is cleared by a glade, and NOGLADE stands until the functions are admitted. -/
def Package.slotChange (P : Package) (old : GenTabs) (letIn : Bool) (v : Nat) : Package :=
  let a := old.vfGlade.get 0 v
  let b := P.comm.vfGlade.get 0 v
  if b = 0 then P.updFn v fun F => { F with noGlade := true }
  else if a = b then P
  else P.updFn v fun F => { F with fresh := false, noGlade := !letIn }

/-- A bole by RT_OOS and the repair load. -/
def Package.powerBole (P : Package) (k : Nat) : Package :=
  match P.powerOf k with
  | .off => if (P.bole k).st = .off then P else P.updBole k fun b => { b with st := .off, running := false }
  | _ => if (P.bole k).st = .off then P.updBole k fun b => { leaf := b.leaf } else P

/-- A bole that leaves or joins a glade: no bank is active, its cause is discarded, its shaper has a new
subscriber. -/
def Package.boleChange (P : Package) (old : GenTabs) (k : Nat) : Package :=
  let P1 := if (old.ni.get {} k).tag = P.tagOf k then P.updBole k fun b => { b with shaper := b.shaper.newRates (P.comm.subNi.get {} k) }
    else P.updBole k fun b => { b with
      cause := {}
      sched := { b.sched with active := 0, armed := false, checking := none, stopping := false }
      shaper := b.shaper.newOwner (P.comm.subNi.get {} k) }
  P1.powerBole k

def Package.linkChange (P : Package) (old : GenTabs) (l : Nat) : Package :=
  if old.owner.get 0 l = P.comm.owner.get 0 l then P.updLink l fun L => { L with shaper := L.shaper.newRates (P.comm.subLk.get {} l) }
  else P.updLink l fun L => { L with shaper := L.shaper.newOwner (P.comm.subLk.get {} l) }

/-- The committed copy becomes t. -/
def Package.commitTables (P : Package) (t : GenTabs) (letIn : Bool) (e : Env) (ctr : Nat) : Package :=
  let P0 := P.advanceAll e.now
  let P1 : Package := { P0 with comm := t }
  let P2 := (List.range 16).foldl (fun P i => P.slotChange P0.comm letIn (i + 1)) P1
  let P3 := (List.range 64).foldl (fun P k => P.boleChange P0.comm k) P2
  let P4 := (List.range 16).foldl (fun P l => P.linkChange P0.comm l) P3
  (List.range 17).foldl (fun P f => P.vector f) (P4.mapRings ctr)

/-- R448. -/
def Package.gladeCommit (P : Package) (e : Env) (ctr : Nat) : Package :=
  match P.rt.commitAt with
  | some w =>
    let c := P.rt.commitTick
    if P.tick < c then P
    else
      let P1 := P.updRt fun r => { r with commitAt := none }
      if P.stag.gen = P.rt.commitGen ∧ w + 2 < c then P1.commitTables P.stag false e ctr
      else P1.updRt fun r => { r with missed := true }
  | none => P

/-- GL_DISCARD (R471). -/
def Package.discard (P : Package) : Package := { P with stag := P.comm }

/-! ### Steps of a replant (Table 17.4) -/

/-- The highest tick that a package of the Grove has reached. -/
def State.groveTick (s : State) (ld : Nat) : Nat := (s.groveLive ld).foldl (fun m key => max m (s.pkg key).tick) 0

/-- Ticks in 5 ms, rounded up, and one more for the tick in progress (step 5). -/
def commitLead (period : Nat) : Nat := ceilDiv 5000 period + 1

/-- Stage a package and give it a commit tick. -/
def Package.stageGen (P : Package) (e : Env) (key tick : Nat) (R : Replant) : Package :=
  { P with
    stag := P.nextTables e key R
    rt := { P.rt with commitTick := tick, commitGen := R.gen, commitAt := some P.tick } }

/-- Has every abort of a removed glade ended (step 2)? -/
def State.abortsOver (s : State) (R : Replant) (gs : List GladeSpec) : Bool :=
  (gs.filter fun g : GladeSpec => R.removed.contains g.tag).all fun g => g.on.all fun x : GladePkg =>
    !(s.pkg x.pkg).live || (((s.pkg x.pkg).fn x.vf).abort.state != 1 && !((s.pkg x.pkg).fn x.vf).inReset)

/-- The glades after a replant. -/
def Replant.after (R : Replant) (gs : List GladeSpec) : List GladeSpec :=
  (gs.filter fun g : GladeSpec => !R.removed.contains g.tag) ++ R.created

/-- Steps 3 to 5: every package is staged, STAGED and COMMIT are journalled, and the commit tick is written. -/
def State.stageAll (s : State) (ld : Nat) (R : Replant) : State :=
  let c := s.groveTick ld + commitLead (s.stand ld).period
  let s1 := (s.groveLive ld).foldl (fun s key => s.updPkg key fun P => P.stageGen (s.env key) key c R) s
  let s2 := (s1.journalAll ld (.staged R.gen)).journalAll ld (.commit R.gen c)
  (s2.updGrove ld fun r => { r with gen := R.gen }).updStand ld fun r =>
    { r with replant := some { R with step := 5, commitTick := c }, glades := R.after r.glades }

/-- Step 7: a package that did not commit is staged again and gets a new commit tick. -/
def State.recommit (s : State) (ld : Nat) (R : Replant) (always : Bool) : State :=
  let c := s.groveTick ld + commitLead (s.stand ld).period
  (s.groveLive ld).foldl (fun s key => s.updPkg key fun P =>
    if P.comm.gen ≠ R.gen ∧ (always ∨ P.rt.commitAt = none) then P.stageGen (s.env key) key c R else P) s

/-- Memory of a package that a cold reset has cleared, and that nothing has written since. -/
def Package.blank (P : Package) : Bool := !P.powered || P.failed || decide (P.reset = .cold)

/-- Is step 7 complete: every package has committed, and every created glade's memory is zeros (R68)? -/
def State.committed (s : State) (ld : Nat) (R : Replant) : Bool :=
  (s.groveLive ld).all (fun key => (s.pkg key).comm.gen == R.gen) &&
    R.created.all fun g : GladeSpec => g.on.all fun x : GladePkg => (s.pkg x.pkg).blank || R.zeroed.contains (x.pkg, x.vf)

/-- Set DISABLE of the links between a sled and its neighbours, at both ends (R455, R457). -/
def State.sledLinks (s : State) (sled : Nat) (dis : Bool) : State :=
  (sledKeys sled).foldl (fun s key => (List.range 16).foldl (fun s l =>
    let (st, px, py, l') := (s.pkg key).farEnd (s.env key) l
    let far := s.keyOf (s.leadOf (key / 64)) (64 * st + 8 * py + px)
    if (sledKeys sled).contains far then s
    else (s.onPowered key fun P => P.updLink l fun L => L.setDisable dis).onPowered far fun P =>
      P.updLink l' fun L => L.setDisable dis) s) s

/-- A package without power keeps its fuse map. -/
def Package.powerOff (P : Package) : Package := { rt := { fuse := P.rt.fuse, tlps := P.rt.tlps, serial := P.rt.serial } }

/-- SERVICE of a sled that no glade touches any more: links disabled, journal, power down (R455). -/
def State.sledDown (s : State) (sled : Nat) : State :=
  let bit : BitVec 16 := 1#16 <<< (sled % 16)
  let s1 := (s.sledLinks sled true).updStand (sled / 16) fun r => { r with
    journal := r.journal ++ [.service (sled % 16) true], sledOut := r.sledOut ||| bit, sledOn := r.sledOn &&& ~~~bit }
  (sledKeys sled).foldl (fun s key => s.updPkg key Package.powerOff) s1

/-- Step 8: DONE is journalled and the created glades' functions are admitted. -/
def State.finishReplant (s : State) (ld : Nat) (R : Replant) : State :=
  let s1 := s.journalAll ld (.done R.gen)
  let s2 := R.created.foldl (fun s g => g.on.foldl (fun s x =>
    s.onPowered x.pkg fun P => P.updFn x.vf fun F => { F with noGlade := false }) s) s1
  let s3 := (s2.updGrove ld fun r => { r with replanting := false }).updStand ld fun r => { r with replant := none }
  match R.sled with
  | some sl => s3.sledDown sl
  | none => s3

/-- Carry the open replant on as far as it can go now. -/
def State.replantStep (s : State) (ld : Nat) : State :=
  match (s.stand ld).replant with
  | none => s
  | some R =>
    if R.step = 2 then if s.abortsOver R (s.stand ld).glades then s.stageAll ld R else s
    else
      let s1 := s.recommit ld R false
      if s1.committed ld R then s1.finishReplant ld R else s1

/-- Steps 1 and 2: BEGIN is journalled, and the glades that go are aborted. -/
def State.beginReplant (s : State) (ld : Nat) (removed : List Nat) (created : List GladeSpec) (sled : Option Nat) : State :=
  let gen := ((s.stand ld).gen + 1) % 2 ^ 32
  let R : Replant := { gen := gen, removed := removed, created := created, step := 2, commitTick := 0, sled := sled }
  let s1 := ((s.journalAll ld (.begin gen removed created)).updGrove ld fun r => { r with replanting := true }).updStand ld
    fun r => { r with replant := some R }
  let s2 := ((s.stand ld).glades.filter fun g : GladeSpec => removed.contains g.tag).foldl (fun s g =>
    g.on.foldl (fun s x => s.vfAborts x.pkg (1#16 <<< (x.vf - 1))) s) s1
  s2.replantStep ld

/-! ### What may be created (R66, R73, R141, R142, R387, R439, R449) -/

/-- A package's part of a created glade fits the tables that the package would have. -/
def Package.placeOk (P : Package) (t : GenTabs) (x : GladePkg) : Bool :=
  let clash (m : Tab Hwa) (base size : Nat) : Bool := (List.range 16).any fun sl =>
    let a := m.get {} sl
    t.vfGlade.get 0 (sl + 1) != 0 && decide (0 < size ∧ 0 < a.size ∧ a.base < base + size ∧ base < a.base + a.size)
  decide (1 ≤ x.vf ∧ x.vf ≤ 16) && t.vfGlade.get 0 x.vf == 0 && (P.fn x.vf).fresh &&
    decide (x.westBase < 64 ∧ x.eastBase < 64 ∧ x.westBase + x.westSize ≤ 64 ∧ x.eastBase + x.eastSize ≤ 64) &&
    !clash t.west x.westBase x.westSize && !clash t.east x.eastBase x.eastSize &&
    decide (budgetSum t.budget + x.budget ≤ P.rt.ovfCeil) &&
    (x.rings.any fun er => er.2 == 0) && decide ((x.rings.map fun er => er.1).Nodup ∧ (x.rings.map fun er => er.2).Nodup) &&
    x.rings.all fun er => decide (1 ≤ er.1 ∧ er.1 < 64 ∧ er.2 < 16) && !(t.engMap.get {} er.1).v

/-- Every position of the glade is in service; those of a sled that has come back, once its links are admitted (R457). -/
def State.positionsOk (s : State) (g : GladeSpec) (key : Nat) : Bool :=
  let P := s.pkg key
  P.live && P.ready && !(s.stand (key / 64)).sledBack.getLsbD (sledOf key % 16) && (List.range 64).all fun k =>
    !g.holds (P.boleX k) (P.boleY k) || (!P.comm.oos.getLsbD k && !P.oosNow.getLsbD k && decide ((P.bole k).st ≠ .off))

/-- May a glade be created, on top of these tables and beside these glades? -/
def State.createOk (s : State) (ld : Nat) (beside : List GladeSpec) (tabs : Nat → GenTabs) (g : GladeSpec) : Bool :=
  let (w, h) := s.shape ld
  let keys := (s.groveKeys ld).filter fun key => g.touches (s.logKey key)
  g.shapeOk w h && (GladeSpec.rates g).good && !(beside.any fun k : GladeSpec => k.tag == g.tag || k.overlaps g) &&
    keys.all (fun key => s.positionsOk g key) && decide ((g.on.map fun x : GladePkg => x.pkg).Nodup) &&
    g.on.all (fun x : GladePkg => keys.contains x.pkg && (s.pkg x.pkg).placeOk (tabs x.pkg) x) &&
    keys.all fun key => (g.place key).isSome

/-- May these glades be created one after another? -/
def State.createsOk (s : State) (ld : Nat) (beside : List GladeSpec) (tabs : Nat → GenTabs) : List GladeSpec → Bool
  | [] => true
  | g :: gs => s.createOk ld beside tabs g &&
      s.createsOk ld (beside ++ [g]) (fun key => (s.pkg key).plant (s.env key) key (tabs key) g) gs

/-! ### Rows -/

/-- Why an action is refused: 1 a creation, 2 a removal, 3 a PATCH, 4 a join, 5 a sled service. -/
def State.refuseAction (s : State) (st why : Nat) : State := s.updStand st fun r => r.alarm (.refused why)

/-- Tags of the glades that touch a sled. -/
def State.sledTags (s : State) (ld sled : Nat) : List Nat :=
  ((s.stand ld).glades.filter fun g : GladeSpec => (sledKeys sled).any fun key => g.touches (s.logKey key)).map fun g : GladeSpec => g.tag

/-- Glades that hold a position which a package is to take out of service, and has not. -/
def State.lostGlades (s : State) (p : Nat) : List Nat :=
  let P := s.pkg p
  let ks := (List.range 64).filter fun k => P.oosNow.getLsbD k && !P.comm.oos.getLsbD k
  ((s.stand (s.leadOf (p / 64))).glades.filter fun g : GladeSpec => ks.any fun k => g.holds (P.boleX k) (P.boleY k)).map
    fun g : GladeSpec => g.tag

/-- Carry out a request, no replant being open. -/
def State.runRequest (s : State) (ld : Nat) : ReplantReq → State
  | .create gs =>
    if s.createsOk ld (s.stand ld).glades (fun key => (s.pkg key).comm) gs then s.beginReplant ld [] gs none
    else s.refuseAction ld 1
  | .remove tags =>
    if tags.all fun t => (s.stand ld).glades.any fun g : GladeSpec => g.tag == t then s.beginReplant ld tags [] none
    else s.refuseAction ld 2
  | .defects p =>
    if (s.pkg p).comm.oos ||| (s.pkg p).oosNow = (s.pkg p).comm.oos then s else s.beginReplant ld (s.lostGlades p) [] none
  | .service sled =>
    let tags := s.sledTags ld sled
    let s1 := s.updStand (sled / 16) fun r => r.alarm (.gladesRemoved tags)
    if tags.isEmpty then s1.sledDown sled else s1.beginReplant ld tags [] (some sled)

/-- The Rootstock goes on: with the open replant, or with the oldest request that waits. -/
def State.replantPoll (s : State) (ld : Nat) : State :=
  if (s.stand ld).replant.isSome then s.replantStep ld
  else match (s.stand ld).waiting with
    | [] => s
    | q :: qs => (s.updStand ld fun r => { r with waiting := qs }).runRequest ld q

/-- A request waits while a replant is open, and behind those that wait (R447). -/
def State.askReplant (s : State) (ld : Nat) (q : ReplantReq) : State :=
  let open_ := (s.stand ld).replant.isSome
  let s1 := s.updStand ld fun r => { r with waiting := r.waiting ++ [q] }
  if open_ then s1 else s1.replantPoll ld

def execGladesCreate (st : StandIx) (gs : List GladeSpec) (s : State) : Host.Outcome State Fault Refusal :=
  .next (s.askReplant (s.leadOf st) (.create gs))

def execGladesRemove (st : StandIx) (tags : List Nat) (s : State) : Host.Outcome State Fault Refusal :=
  .next (s.askReplant (s.leadOf st) (.remove tags))

def execServiceSled (st : StandIx) (sled : Fin 16) (s : State) : Host.Outcome State Fault Refusal :=
  .next (if (s.stand st).sledOut.getLsbD sled then s.refuseAction st 5
    else s.askReplant (s.leadOf st) (.service (16 * st + sled)))

def execGladeCommit (p : PkgId) (s : State) : Host.Outcome State Fault Refusal :=
  .next ((s.bump.onLive p fun P => P.gladeCommit (s.env p) s.freeCtr).replantPoll (s.leadOf (p / 64)))

def execGlDiscard (p : PkgId) (s : State) : Host.Outcome State Fault Refusal :=
  .next (s.onLive p Package.discard)

/-- What a Rootstock that boots knows: the journal's configuration, and the fans at their 900 W figure (Table 17.1). -/
def Rootstock.reboot (r : Rootstock) (n : Nat) : Rootstock :=
  ({ r with fans := 900, above37 := 0, reports := [], waiting := [] } : Rootstock).compute n

/-- Roll back: ROLLBACK is journalled, and every package discards its staged copy (Table 17.5). -/
def State.rollBack (s : State) (ld : Nat) (R : Replant) : State :=
  let s1 := (s.journalAll ld (.rollback R.gen)).updGrove ld fun r => { r with replanting := false }
  ((s.groveLive ld).foldl (fun s key => s.updPkg key Package.discard) s1).updStand ld fun r => { r with replant := none }

/-- A restart of a Rootstock; the lead's decides an open replant by its journal. -/
def execRootstockRestart (st : StandIx) (s : State) : Host.Outcome State Fault Refusal :=
  let s1 := s.updStand st fun r => r.reboot (s.inService st).length
  .next (if s.leadOf st = st then
    match (s1.stand st).replant with
    | some R => if R.step = 2 then s1.rollBack st R else (s1.recommit st R true).replantStep st
    | none => s1
  else s1)

end Sys2Proof.Machine
end

