-- ==== Sys2Proof/Machine/Stand.lean ====
section
/-! DEFINITION. Bring-up and the Stand: rows RT_ZERO_DONE, SLED_POWER_ON to FIRST_TOKEN_TICK, RETURN_SLED to
RT_POSITION_WRITE (R23, R57, R68, R435 to R445, R450 to R452, R457, R458, R469, R479). -/

namespace Sys2Proof.Machine

/-! ### Tables after a reset (R445, R451, R452) -/

def Package.powerAll (P : Package) : Package := (List.range 64).foldl (fun P k => P.powerBole k) P

/-- The slots of glades that an open replant creates are not admitted yet. -/
def Package.holdCreated (P : Package) (key : Nat) (R : Option Replant) : Package :=
  match R with
  | some R => if R.step = 2 then P else R.created.foldl (fun P g => match g.place key with
      | some x => P.updFn x.vf fun F => { F with noGlade := true }
      | none => P) P
  | none => P

/-- What the Rootstock writes into the committed copy while BRINGUP is 1: after a warm reset, or with a replant open, all of
the generation in force; else the positions out of service and the owners of the links (R439, R441). -/
def Package.reload (P : Package) (e : Env) (key : Nat) (r : Rootstock) (direct : Bool) (ctr : Nat) : Package :=
  let t := P.tables e key r.gen r.glades
  let P := if direct then P.budgetNote e key r.glades else P
  if direct then (P.commitTables t true e ctr).holdCreated key r.replant
  else ({ P with comm := { P.comm with oos := t.oos, owner := t.owner, subLk := t.subLk } } : Package).powerAll

/-! ### Bring-up (R435, R437, R440) -/

/-- Compute sled s is powered: its packages are in cold reset. -/
def State.sledUp (s : State) (sled : Nat) : State :=
  ((sledKeys sled).foldl (fun s key => s.updPkg key (Package.coldStart s.now)) s).updStand (sled / 16) fun r =>
    { r with sledOn := r.sledOn ||| (1#16 <<< (sled % 16)) }

/-- The Grove epoch of a Stand that has none: the time at which its bring-up begins (R29). -/
def State.setEpoch (s : State) (st : Nat) : State := s.updStand st fun r => { r with epoch := some (r.epoch.getD s.now) }

def execSledPowerOn (st : StandIx) (sled : Fin 16) (s : State) : Host.Outcome State Fault Refusal :=
  let r := s.stand st
  .next (if r.thermalHold || r.sledOn.getLsbD sled || r.sledOut.getLsbD sled then s
    else (s.setEpoch st).sledUp (16 * st + sled))

/-- Put a defect into the first free field entry. -/
def RootBlk.addField (r : RootBlk) (d : Defect) : RootBlk :=
  match (List.range 32).find? fun i => (r.field.get ⟨0, 0, 0⟩ i).kind == 0 with
  | some i => { r with field := r.field.set i d }
  | none => r

/-- Graft channels that failed training and are not listed yet, as defects. -/
def Package.newChannels (P : Package) (badGraft : BitVec 9) : List Defect :=
  ((List.range 9).filter fun c => badGraft.getLsbD c &&
    !P.defects.any fun d : Defect => d.kind == 3 && d.row == c).map fun c => ⟨3, 0, c⟩

/-- The package reports ready: its time starts at 0 with the journal's tick period. tick and time: a tick of the period in
force and its TK_TIME, as a package in service has them. -/
def Package.becomeReady (P : Package) (now period tick time : Nat) (bad : List Defect) : Package :=
  let P1 : Package := { P with
    reset := .none, ready := true
    tk := { P.tk with timeBase := 0, timeFrac := 0, timeAt := now, winStart := now, winCyc := 0, period := period,
                      periodNext := period, eraTick := tick, eraTime := time }
    rt := bad.foldl RootBlk.addField { P.rt with upAt := now } }
  P1.ovfRescale period 20

/-- The tick at which the period in force began, as the packages in service of a Stand have it; 0 where none is (log 29). -/
def State.era (s : State) (st : Nat) : Nat × Nat :=
  match s.inService st with
  | n :: _ => ((s.pkg (64 * st + n)).tk.eraTick, (s.pkg (64 * st + n)).tk.eraTime)
  | [] => (0, 0)

def execPackageReady (p : PkgId) (badGraft : BitVec 9) (s : State) : Host.Outcome State Fault Refusal :=
  let P := s.pkg p
  let st : Nat := p / 64
  if P.powered && decide (P.reset ≠ .none) && P.rt.posV && !P.failed then
    let bad := P.newChannels badGraft
    let s1 := s.bump.updStand st fun r => { r with
      journal := r.journal ++ bad.map fun d => .defect (p % 64) d, granted := r.granted.set (p % 64) 0 }
    let ld := s.stand (s.leadOf st)
    let direct := decide (P.reset = .warm) || ld.replant.isSome
    let (tick, time) := s.era st
    .next (s1.updPkg p fun P =>
      (P.becomeReady s.now (s.stand st).cfgPeriod tick time bad).reload (s.env p) p ld direct s.freeCtr)
  else .next s

/-- A package that is not ready in time is held in cold reset, all its positions out of service. -/
def Package.fail (P : Package) : Package :=
  let Q := P.coldClear
  { Q with failed := true, comm := { Q.comm with oos := BitVec.allOnes 64 }, boles := Q.boles.map fun x => (x.1, { x.2 with st := .off }) }

/-- 25 ms in CKM cycles (Table 17.1, phase 3). -/
def phaseThree : Nat := 37500000

def execPackageFailed (p : PkgId) (s : State) : Host.Outcome State Fault Refusal :=
  let P := s.pkg p
  .next (if P.powered && decide (P.reset ≠ .none) && !P.failed && decide (P.rt.pwrAt + phaseThree < s.now) then
    (s.updPkg p Package.fail).updStand (p / 64) fun r => r.alarm (.packageFailed (p % 64))
  else s)

/-! ### First token tick and reload (R436, R443, R445) -/

/-- At tick F the package leaves the bring-up power state. -/
def Package.firstToken (P : Package) : Package :=
  let t : TokenBlk := { P.tok with bringup := false }
  let t1 : TokenBlk := if t.nextTick ≠ 0 ∧ t.nextTick ≤ P.tick then { t with base := t.baseNext, cap := t.capNext } else t
  { P with tok := t1.select P.tk.period }

/-- Phase 8: a package that does not hold the generation in force is staged with it and given a commit tick. -/
def Package.stageReload (P : Package) (e : Env) (key : Nat) (r : Rootstock) : Package :=
  if P.comm.gen = r.gen ∨ r.replant.isSome then P
  else { P.budgetNote e key r.glades with
    stag := P.tables e key r.gen r.glades
    rt := { P.rt with commitTick := P.tick + commitLead P.tk.period, commitGen := r.gen, commitAt := some P.tick } }

def execFirstTokenTick (p : PkgId) (s : State) : Host.Outcome State Fault Refusal :=
  .next (s.onLive p fun P =>
    if P.tok.bringup ∧ P.tok.firstTick ≠ 0 ∧ P.tok.firstTick ≤ P.tick then
      P.firstToken.stageReload (s.env p) p (s.stand (s.leadOf (p / 64)))
    else P)

/-! ### Zeroing complete (R68, R447, R450) -/

/-- The slot's function is admitted once its glade's zeroing is complete: with the replant that creates the glade at its step
8, else at once. -/
def State.zeroed (s : State) (p v : Nat) : State :=
  let ld := s.leadOf (p / 64)
  let tag := (s.pkg p).tagOfFn v
  match (s.stand ld).replant with
  | some R =>
    if R.created.any fun g : GladeSpec => g.tag == tag then
      (s.updStand ld fun r => { r with replant := some { R with zeroed := R.zeroed ++ [(p, v)] } }).replantStep ld
    else s
  | none =>
    if (s.stand ld).glades.any fun g : GladeSpec => g.tag == tag then
      s.updPkg p fun P => P.updFn v fun F => { F with noGlade := false }
    else s

def execRtZeroDone (p : PkgId) (s : State) : Host.Outcome State Fault Refusal :=
  let P := s.pkg p
  .next (if P.live && P.rt.zeroBusy then
    (s.updPkg p fun P => (P.zeroSlot P.rt.zeroSlot).updRt fun r => { r with zeroBusy := false, zeroDone := true }).zeroed p
      (P.rt.zeroSlot + 1)
  else s)

/-! ### Sleds and Groves (R457, R458) -/

def execReturnSled (st : StandIx) (sled : Fin 16) (s : State) : Host.Outcome State Fault Refusal :=
  let bit : BitVec 16 := 1#16 <<< sled.val
  .next (if (s.stand st).sledOut.getLsbD sled then
    (((s.updStand st fun r => { r with sledOut := r.sledOut &&& ~~~bit, sledBack := r.sledBack ||| bit }).sledUp (16 * st + sled)).sledLinks
      (16 * st + sled) false).updStand st fun r => { r with journal := r.journal ++ [.service sled false] }
  else s)

def inShape (w h st : Nat) : Bool := decide (st % 8 < w ∧ st / 8 < h)

/-- Stands that a new shape takes in or leaves out. -/
def State.joining (s : State) (w h : Nat) : List Nat :=
  let (w0, h0) := s.shape 0
  (List.range 32).filter fun st => inShape w h st || inShape w0 h0 st

/-- A Stand takes its place in the new shape; the Grove epoch is set anew (R29). -/
def Rootstock.join (r : Rootstock) (w h st now : Nat) : Rootstock :=
  let r0 : Rootstock := { r with epoch := some now, lostAt := none, granted := [], issued := [], banks := [] }
  let r1 : Rootstock := if inShape w h st then { r0 with w := w, h := h, stand := st, lead := decide (st = 0) }
    else { r0 with w := 1, h := 1, stand := 0, lead := true }
  r1.journalConfig r1.cfgPeriod

def execJoinGrove (w h : Nat) (s : State) : Host.Outcome State Fault Refusal :=
  let sts := s.joining w h
  if [1, 2, 4, 8].contains w && [1, 2, 4].contains h then
    if sts.any fun st => !(s.stand st).glades.isEmpty || (s.stand st).replant.isSome then .next (s.refuseAction 0 4)
    else
      let short := (sts.filter (inShape w h)).foldl (fun m st =>
        max m ((s.stand st).shortfall w h (s.stand st).hostAllowance (s.stand st).period)) 0
      if short ≠ 0 then .next (s.updStand 0 fun r => r.alarm (.configShort short))
      else
        let s1 := sts.foldl (fun s st => s.updStand st fun r => r.join w h st s.now) s
        .next (sts.foldl (fun s st => s.updStandPkgs st (Package.coldStart s.now)) s1)
  else .next s

/-! ### Rootstock properties (R57, R479) -/

def execRedfishPatch (st : StandIx) (prop : RsProp) (v : Nat) (s : State) : Host.Outcome State Fault Refusal :=
  .next (match prop with
    | .hostAllowance =>
      if 65536 ≤ v then s
      else
        let short := (s.stand st).shortfall (s.stand st).w (s.stand st).h v (s.stand st).period
        if short ≠ 0 then s.updStand st fun r => r.alarm (.configShort short)
        else s.updStand st fun r => ({ r with hostAllowance := v } : Rootstock).journalConfig r.cfgPeriod
    | .bankCapSet =>
      if 2 ^ 20 ≤ v then s
      else s.updStand st fun r => ({ r with bankCapSet := v } : Rootstock).journalConfig r.cfgPeriod)

/-! ### Registers of bring-up (R23, R438, R469) -/

/-- A field defect entry; in a reset the repair load takes it up. -/
def Package.fieldWrite (P : Package) (i v : Nat) : Package :=
  let d : Defect := ⟨bits v 1 0, bits v 6 4, bits v 11 8⟩
  if d.kind ≠ 0 ∧ 9 ≤ d.row then P.updFn 0 fun F => { F with badCfg := true }
  else
    let P1 := P.updRt fun r => { r with field := r.field.set i d }
    if P.reset = .none then P1 else P1.loadRepair

/-- The defect that a write adds, to be journalled first (R444). -/
def Package.addedDefect (P : Package) (n i v : Nat) : List JRec :=
  let d : Defect := ⟨bits v 1 0, bits v 6 4, bits v 11 8⟩
  if d.kind = 0 ∨ 9 ≤ d.row ∨ P.rt.field.get ⟨0, 0, 0⟩ i = d then [] else [.defect n d]

/-- A position found defective in a package that runs goes out of service by a replant, which removes the glades that hold it
(R152, R439, R446): the Rootstock queues it. -/
def State.askOos (s : State) (p : Nat) : State :=
  let P := s.pkg p
  if P.live ∧ P.comm.oos ||| P.oosNow ≠ P.comm.oos then
    s.updStand (s.leadOf (p / 64)) fun r => { r with waiting := r.waiting ++ [.defects p] }
  else s

def State.fieldDefect (s : State) (p i v : Nat) : State :=
  if (s.pkg p).powered then
    ((s.updStand (p / 64) fun r => { r with journal := r.journal ++ (s.pkg p).addedDefect (p % 64) i v }).updPkg p
      fun P => P.fieldWrite i v).askOos p
  else s

def execRtFieldDefectWrite (p : PkgId) (i : Fin 32) (v : BitVec 32) (s : State) : Host.Outcome State Fault Refusal :=
  .next (s.fieldDefect p i v.toNat)

def Package.setPosition (P : Package) (v : Nat) : Package :=
  P.updRt fun r => { r with stand := bits v 4 0, px := bits v 10 8, py := bits v 14 12, posV := r.posV || bitAt v 31 }

def execRtPositionWrite (p : PkgId) (v : BitVec 32) (s : State) : Host.Outcome State Fault Refusal :=
  .next (s.onPowered p fun P => P.setPosition v.toNat)

end Sys2Proof.Machine
end

