-- ==== Sys2Proof/Machine/Tick.lean ====
section
/-! DEFINITION. The tick of a package, and the thermal hold: rows TICK and THERMAL_HOLD (R28, R34, R42 to R47, R56, R75,
R206, R284, R294, R305, R391). -/

namespace Sys2Proof.Machine

/-! ### Snapshots of one window (R42, R305) -/

def Ni.tick (n : Ni) (t : Nat) : Ni :=
  { n with
    cntSnap := n.cnt, cnt := [], smpTick := t, expire := n.expireLive.getD 0, expireLive := none
    qmon := (List.range 4).map fun v => (v, (n.qmon.get {} v).tick (n.depth v)) }

def Inbox.tick (i : Inbox) : Inbox := { i with mon := i.mon.tick (min 64 i.q.length) }

def Coll.tick (c : Coll) (t : Nat) : Coll :=
  { c with
    twSnap := c.twCnt, twCnt := [], twSmpTick := t, snap := c.cnt, cnt := [], smpTick := t
    inbox := (List.range 16).map fun i => (i, (c.inbox.get {} i).tick)
    ops := c.ops.map fun o : CollOp => { o with chunksTick := 0 } }

def Sparse.tick (p : Sparse) (t : Nat) : Sparse := { p with snap := p.cnt, cnt := [], smpTick := t }

/-- One bole, its shaper standing at the tick. -/
def Bole.tick (sub : Rates) (t : Nat) (b : Bole) : Bole :=
  { b with ni := b.ni.tick t, coll := b.coll.tick t, sp := b.sp.tick t, cv := b.cv.tick, shaper := b.shaper.tick sub t }

/-- One link: the event of the window that closes is over, unless the link is untrained. -/
def Link.tick (sub : Rates) (t : Nat) (L : Link) : Link :=
  { L with
    snap := L.cnt, cnt := [], smpTick := t, shaper := L.shaper.tick sub t, eventLast := L.eventWin
    eventWin := decide (L.train ≠ .active)
    vcMon := (List.range 8).map fun c => (c, (L.vcMon.get {} c).tick (L.egDepth c)) }

def Func.tick (t : Nat) (F : Func) : Func :=
  { F with cntBadDb := F.cntBadDb.tick, cntNudgeIgn := F.cntNudgeIgn.tick, smpTick := t, cv := F.cv.tick }

/-- Every counter and sample of the package closes, kept shaper writes take effect, every check-value unit counts. -/
def Package.snapshots (P : Package) (t : Nat) : Package :=
  let P1 := (List.range 64).foldl (fun P k => P.updBole k (Bole.tick (P.comm.subNi.get {} k) t)) P
  let P2 := (List.range 16).foldl (fun P l => P.updLink l (Link.tick (P.comm.subLk.get {} l) t)) P1
  let P3 := (List.range 49).foldl (fun P i => P.updArb i fun a => a.tick t) P2
  let P4 := (List.range 17).foldl (fun P f => P.updFn f (Func.tick t)) P3
  P4.updRt fun r => { r with cntLate := r.cntLate.tick, smpTick := t }

/-! ### The tick block (R28, R34) -/

/-- State.now once the next tick has fired: never before TK_TIME reaches the tick time. -/
def TickBlk.nextAt (t : TickBlk) (now : Nat) : Nat := max now t.dueAt

/-- The tick fires one period of TK_TIME after the last one; TK_TIME itself runs on (R28, R29). A period without a valid
exchange breaks every run of consecutive exchanges (DEDUCED, log 29). -/
def TickBlk.fire (t : TickBlk) : TickBlk :=
  let t1 : TickBlk := { t with offLast := t.offHeld, interLast := t.interHeld, lostLast := t.lostWin, lostWin := t.lost,
                               tickNum := (t.tickNum + 1) % 2 ^ 48, tickTime := t.nextTime, winStart := t.dueAt, winCyc := 0,
                               exchSeen := false }
  let t2 : TickBlk := if t.exchSeen then { t1 with noExch := 0 } else { t1 with noExch := t.noExch + 1, holdover := true, inLock := 0, outLock := 0 }
  { t2 with offHeld := t2.offHeld && !t2.locked, interHeld := t2.interHeld && t2.groveUnlocked }

/-! ### The token block (R45, R46) -/

/-- The books of the window close, and the step of the next one is chosen. -/
def Package.tokens (P : Package) (window spent : Nat) : Package :=
  let (t, ovr) := P.tok.close window P.tk.period spent
  let P1 : Package := { P with tok := t.select P.tk.period }
  if ovr then P1.setPkgLeaf pkOverspend else P1

/-! ### Doorbell poll (R391) -/

def Package.pollRings (P : Package) : Package :=
  (List.range 17).foldl (fun P f => if (P.fn f).inReset then P else (P.ringsOf f).foldl (fun P r =>
    let R := P.ring f r
    if R.poll && decide (R.st = .idle ∨ R.st = .running) then P.askRecord f r else P) P) P

/-- One tick of a package whose clock stands at now: spent is the energy measured in the window that ends. -/
def Package.tickAt (P : Package) (e : Env) (spent : Nat) : Package :=
  let now := e.now
  let window := P.tk.tickNum
  let P' := (P.closeOccs e).advanceAll now
  let P0 : Package := { P' with tk := P'.tk.fire }
  let P1 := (P0.tokens window spent).snapshots P0.tk.tickNum
  let P2 := ((P1.syncBegin e).schedTick.schedLinkTick).updRt fun r => { r with ovfUsed := [] }
  P2.pollRings

def execTick (p : PkgId) (spent : Nat) (s : State) : Host.Outcome State Fault Refusal :=
  let P := s.pkg p
  .next (if P.live && P.ready then
    let now := P.tk.nextAt s.now
    let s1 : State := ({ s with now := now } : State).updPkg p fun P => P.tickAt { s.env p with now := now } spent
    s1.wake.replantPoll (s.leadOf (p / 64))
  else s)

/-! ### Thermal hold (R56, R418) -/

/-- Every glade of a Stand aborts. -/
def State.abortStand (s : State) (st : Nat) : State :=
  let gs := (s.stand (s.leadOf st)).glades.filter fun g : GladeSpec => g.on.any fun x : GladePkg => x.pkg / 64 == st
  gs.foldl (fun s g => g.on.foldl (fun s x => s.vfAborts x.pkg (1#16 <<< (x.vf - 1))) s) s

/-- The packages of a Stand are powered down. -/
def State.holdStand (s : State) (st : Nat) : State :=
  ((List.range 64).foldl (fun s n => s.updPkg (64 * st + n) fun P => { P with powered := false, ready := false, thermal := true })
    s).updStand st fun r => { r with thermalHold := true, sledOn := 0 }

def execThermalHold (st : StandIx) (s : State) : Host.Outcome State Fault Refusal :=
  .next (if 60 ≤ (s.stand st).above37 ∧ (s.stand st).thermalHold = false then (s.abortStand st).holdStand st else s)

end Sys2Proof.Machine
end

