-- ==== Sys2Proof/Machine/RegMap.lean ====
section
/-! DEFINITION. The register maps as they read, 32-bit word by word (R411, R417, R459 to R478, Tables 4.3, 11.1, 12.4, 15.4,
16.1, 18.3 to 18.13). An offset that no table names reads 0 (R464). -/

namespace Sys2Proof.Machine

/-- The i-th 32-bit word of a value. -/
def w32 (v i : Nat) : Nat := v / 2 ^ (32 * i) % 2 ^ 32

/-- A number from its bits: pairs of a bit and a flag. -/
def flagBits (l : List (Nat × Bool)) : Nat := ((l.filter fun x => x.2).map fun x => 2 ^ x.1).sum

/-! ### Values -/

/-- A sample register (Table 18.3). -/
def Smp.value (x : Smp) : Nat := x.dmin % 256 + 2 ^ 8 * (x.dmax % 256) + 2 ^ 16 * x.dlyMax + 2 ^ 32 * x.dlySum + 2 ^ 64 * x.nout

def SchedHdr.value (h : SchedHdr) : Nat := h.periodUs + 2 ^ 8 * h.m + 2 ^ 16 * h.entries + 2 ^ 32 * h.tag

/-- NI_STREAM_n (Table 18.11). -/
def Stream.value (d : Stream) : Nat :=
  b2n d.eject + 2 ^ 8 * d.addr + 2 ^ 32 * d.advance + 2 ^ 64 * d.nbuf + 2 ^ 80 * d.flits + 2 ^ 96 * d.flag +
    2 ^ 119 * b2n d.flagSel + 2 ^ 120 * d.credit

/-- CL_TRIG_t (Table 18.12). -/
def Trig.value (t : Trig) : Nat :=
  b2n t.v + 2 ^ 8 * t.ctr + 2 ^ 16 * t.act + 2 ^ 20 * t.lane + 2 ^ 32 * t.group + 2 ^ 38 * t.epoch + 2 ^ 64 * t.thresh + 2 ^ 96 * t.desc

/-- CL_GROUP_g (Table 18.13). -/
def Group.value (G : Group) : Nat :=
  b2n G.v + 2 * G.part + 8 * b2n G.exec + 16 * b2n G.fast + 32 * b2n G.acc + 2 ^ 8 * G.lane + 2 ^ 16 * G.set.x0 + 2 ^ 32 * G.set.y0 +
    2 ^ 40 * G.set.lsx + 2 ^ 44 * G.set.lsy + 2 ^ 48 * G.set.nx + 2 ^ 64 * G.set.ny + 2 ^ 80 * G.rootI + 2 ^ 96 * G.rootJ +
    2 ^ 112 * G.timeout + 2 ^ 120 * (G.epoch % 64) + 2 ^ 128 * (G.launches % 2 ^ 32)

/-- SP_FAULT (Table 5.8). -/
def Sparse.faultValue (x : Sparse) : Nat :=
  b2n x.faultV + 2 * x.faultCode + 2 ^ 4 * x.faultRow + 2 ^ 10 * x.faultChunk + 2 ^ 16 * x.faultStep

/-- FN_ABORT_STATUS (Table 16.5). -/
def AbortSt.value (a : AbortSt) : Nat := a.state + 8 * a.repeats + 2 ^ 32 * (a.startTick % 2 ^ 32)

def RingState.code : RingState → Nat
  | .disabled => 0 | .idle => 1 | .running => 2 | .quiesced => 3 | .stopped => 4

/-- NI_SCHED_STATUS (Table 18.10). -/
def Sched.status (S : Sched) : Nat :=
  flagBits [(0, S.armed), (1, S.badTable), (2, S.lateArm), (3, S.mismatch), (6, S.activeWr)] + 16 * S.active + 2 ^ 16 * S.badIdx

def Rates.bs (r : Rates) : Nat := r.cbs + 2 ^ 16 * r.pbs

/-! ### Blocks that several spaces hold -/

/-- A shaper but its subscriber fields, by offset from SH_CTRL. -/
def Shaper.word (sh : Shaper) (o : Nat) : Nat :=
  if o = 0 then b2n sh.en
  else if o = 4 then b2n sh.badCfg
  else if o = 8 then sh.laneW
  else if o = 0x10 ∨ o = 0x14 then w32 sh.smpTick (o / 4 % 2)
  else if 0x40 ≤ o ∧ o < 0x80 then
    let s := o / 32 % 2
    let (wheel, r, sp) := sh.cfg s
    let v := sh.svc s
    match o % 32 / 4 with
    | 0 => b2n wheel
    | 1 => r.cir
    | 2 => r.pir
    | 3 => r.bs
    | 4 => sp
    | 5 => v.green.snap
    | 6 => v.yellow.snap
    | _ => v.redwait.snap
  else 0

/-- SH_SUB_CIR, SH_SUB_PIR, SH_SUB_BS, by word. -/
def Rates.word (r : Rates) (i : Nat) : Nat := if i = 0 then r.cir else if i = 1 then r.pir else if i = 2 then r.bs else 0

/-- A check-value unit (Table 11.1). -/
def Cv.word (c : Cv) (o : Nat) : Nat :=
  let i := o / 4 % 2
  if o = 0 then c.cfg
  else if o / 8 = 1 then w32 c.poly i
  else if o / 8 = 2 then w32 c.init i
  else if o / 8 = 3 then w32 c.xorout i
  else if o / 8 = 4 then w32 c.state i
  else if o / 8 = 5 then w32 c.result i
  else if o / 8 = 6 then w32 c.expect i
  else if o / 8 = 7 then w32 (cvMask c c.latched) i
  else if o = 0x54 then c.alive
  else if o = 0x58 then cvStatus c
  else if o = 0x5C then c.bytes
  else if o = 0x60 then c.cntMatch
  else if o = 0x64 then c.cntMismatch
  else if o = 0x68 then c.watch
  else 0

/-! ### Function space (Table 18.4, Table 15.4, Table 16.1) -/

def Ring.word (R : Ring) (o : Nat) : Nat :=
  if o < 8 then w32 R.base (o / 4)
  else if o < 0x10 then w32 R.dbr (o / 4 % 2)
  else if o < 0x18 then w32 R.cq (o / 4 % 2)
  else if o = 0x18 then R.log2size + 256 * b2n R.en + 512 * b2n R.poll
  else if o = 0x20 then R.st.code
  else if o = 0x24 then R.head
  else if o = 0x28 then R.tailSeen
  else 0

def Package.causeWord (P : Package) (f o : Nat) : Nat :=
  let F := P.fn f
  if o = 0x3000 then (P.summary f).toNat
  else if o = 0x3004 then F.sumEn
  else if o = 0x3010 then F.ringLeaf.toNat
  else if o = 0x3014 then F.ringEn.toNat
  else if o = 0x3018 then F.funcLeaf.toNat
  else if o = 0x301C then F.funcEn.toNat
  else if o = 0x3020 ∨ o = 0x3024 then w32 (((P.intBole f).map fun k => 2 ^ k).sum) (o / 4 % 2)
  else if o = 0x3028 then F.boleEn.toNat
  else if o = 0x3030 then (if f = 0 then F.pkgLeaf.toNat else 0)
  else if o = 0x3034 then (if f = 0 then F.pkgEn.toNat else 0)
  else if o = 0x3040 ∨ o = 0x3044 then w32 F.abort.value (o / 4 % 2)
  else if 0x3100 ≤ o ∧ o < 0x3300 then w32 (P.causeSeen f ((o - 0x3100) / 8)).value (o / 4 % 2)
  else 0

def Package.fnWord (P : Package) (f o : Nat) : Nat :=
  let F := P.fn f
  if o = 0 then 0x464E + 2 ^ 16 * f + 2 ^ 24 * 0x10
  else if o = 4 then flagBits [(0, F.noGlade), (1, F.badCfg), (2, F.escalated), (3, F.fresh)]
  else if o = 8 then b2n F.lock
  else if o = 0x14 then P.ringCount f
  else if o = 0x18 ∨ o = 0x1C then w32 F.smpTick (o / 4 % 2)
  else if o = 0x20 then F.cntBadDb.snap
  else if o = 0x24 then F.cntNudgeIgn.snap
  else if 0x1000 ≤ o ∧ o < 0x1400 then (F.ring ((o - 0x1000) / 0x40)).word (o % 0x40)
  else if o = 0x2000 ∨ o = 0x2004 then w32 F.ovfBase (o / 4 % 2)
  else if o = 0x2008 then F.ovfSize
  else if 0x2010 ≤ o ∧ o < 0x2054 then
    (if f = 0 then P.comm.budget.get 0 ((o - 0x2010) / 4) else if o = 0x2010 then P.comm.budget.get 0 f else 0)
  else if 0x2090 ≤ o ∧ o < 0x20D4 then (if f = 0 then P.stag.budget.get 0 ((o - 0x2090) / 4) else 0)
  else if 0x3000 ≤ o ∧ o < 0x4000 then P.causeWord f o
  else if o = 0xE000 ∨ o = 0xE004 then w32 F.msix.addr (o / 4 % 2)
  else if o = 0xE008 then F.msix.data
  else if o = 0xE00C then b2n F.msix.vmask
  else if o = 0xE800 then b2n (F.msix.pend && P.vecPending f)
  else if 0xF000 ≤ o ∧ o < 0xF070 then F.cv.word (o - 0xF000)
  else 0

/-! ### Package space (Tables 18.5 to 18.8), by offset from 0x1_0000 -/

/-- Words of a generation-carrying table of package space. -/
def GenTabs.word (g : GenTabs) (o : Nat) : Nat :=
  if o = 0x18 ∨ o = 0x1C then w32 g.oos.toNat (o / 4 - 6)
  else if 0x40 ≤ o ∧ o < 0x80 then g.vfGlade.get 0 ((o - 0x40) / 4 + 1)
  else if 0x100 ≤ o ∧ o < 0x200 then
    let m := g.engMap.get {} ((o - 0x100) / 4)
    m.fn + 2 ^ 8 * m.ring + 2 ^ 15 * b2n m.v
  else if 0x3000 ≤ o ∧ o < 0x3100 then
    let s := (o - 0x3000) / 16
    if o % 16 = 0 then (g.west.get {} s).base + 2 ^ 16 * (g.west.get {} s).size
    else if o % 16 = 4 then (g.east.get {} s).base + 2 ^ 16 * (g.east.get {} s).size
    else 0
  else if 0x8000 ≤ o ∧ o < 0xC000 then
    let l := (o - 0x8000) / 0x400
    let q := o % 0x400
    if q = 0x18 then g.owner.get 0 l
    else if 0x280 ≤ q ∧ q < 0x28C then (g.subLk.get {} l).word ((q - 0x280) / 4)
    else 0
  else 0

def Package.tickWord (P : Package) (now o : Nat) : Nat :=
  let t := P.tk
  let i := o / 4 % 2
  if o / 8 = 0 then w32 (t.time now) i
  else if o / 8 = 1 then w32 t.tickNum i
  else if o = 0x10 then t.status
  else if o = 0x14 then (t.offset % 2 ^ 32).toNat
  else if o = 0x18 then t.period
  else if o = 0x1C then t.periodNext
  else if o / 8 = 4 then w32 t.switchTick i
  else 0

def Package.tokenWord (P : Package) (o : Nat) : Nat :=
  let t := P.tok
  if o = 0 then t.step
  else if o = 4 then t.maxStep
  else if o = 8 then b2n t.burstEn
  else if o = 0xC then t.base
  else if o = 0x10 then t.cap
  else if o = 0x14 then t.award
  else if o = 0x18 then t.bank
  else if o = 0x1C then t.overspend
  else if o = 0x20 then t.baseNext
  else if o = 0x24 then t.capNext
  else if o = 0x28 ∨ o = 0x2C then w32 t.nextTick (o / 4 % 2)
  else if o = 0x30 ∨ o = 0x34 then w32 t.firstTick (o / 4 % 2)
  else 0

def Arb.word (i : Nat) (a : Arb) (o : Nat) : Nat :=
  if o = 0 then a.n + 256 * a.mode
  else if o = 4 then a.status
  else if o = 8 then a.qmon.wm.value
  else if o = 0xC then a.qmon.wm.count
  else if 0x10 ≤ o ∧ o < 0x28 then
    let n := (o - 0x10) / 4
    ((List.range 16).map fun j => if 16 * n + j < arbRequesters i then a.classOf i (16 * n + j) * 4 ^ j else 0).sum
  else if o = 0x30 ∨ o = 0x34 then w32 a.smpTick (o / 4 % 2)
  else if 0x40 ≤ o ∧ o < 0x50 then w32 a.qmon.snap.value (o / 4 % 4)
  else if 0x50 ≤ o ∧ o < 0x70 then a.cntSnap.get 0 ((o - 0x50) / 4)
  else 0

def Package.linkWord (P : Package) (l o : Nat) : Nat :=
  let L := P.link l
  if o = 0 then 4 * b2n L.disable
  else if o = 4 then L.status
  else if o = 8 then L.rtt
  else if o = 0xC then L.fibre
  else if o = 0x10 then L.skid
  else if o = 0x14 then L.partnerValue
  else if o = 0x20 ∨ o = 0x24 then w32 (L.escape + 2 ^ 63 * b2n L.escapeV) (o / 4 % 2)
  else if o = 0x30 ∨ o = 0x34 then w32 L.smpTick (o / 4 % 2)
  else if 0x40 ≤ o ∧ o < 0x70 then L.snap.get 0 ((o - 0x40) / 4)
  else if 0x200 ≤ o ∧ o < 0x280 then L.shaper.word (o - 0x200)
  else if 0x300 ≤ o ∧ o < 0x380 then w32 (L.vcMon.get {} ((o - 0x300) / 16)).snap.value (o / 4 % 4)
  else P.comm.word (0x8000 + 0x400 * l + o)

/-- RT_SPARE_MAP (R77). -/
def Package.spareMap (P : Package) : Nat := ((List.range 8).map fun c => P.skipped c * 16 ^ c).sum

def Package.rootWord (P : Package) (o : Nat) : Nat :=
  let r := P.rt
  if o = 0 then 0x5254 + 2 ^ 24 * 0x10
  else if o = 4 then r.stand + 2 ^ 8 * r.px + 2 ^ 12 * r.py + 2 ^ 31 * b2n r.posV
  else if o = 8 then r.width + 2 ^ 6 * r.speed
  else if o = 0xC then P.spareMap
  else if o = 0x10 then P.repair.dead.toNat
  else if o = 0x20 then r.ovfCeil
  else if o = 0x28 then flagBits [(0, r.zeroBusy), (1, r.zeroDone)]
  else if o = 0x30 then r.cntLate.snap
  else if o = 0x34 then b2n r.lock
  else if o = 0x38 ∨ o = 0x3C then w32 r.smpTick (o / 4 % 2)
  else if 0x200 ≤ o ∧ o < 0x280 then
    let d := r.field.get ⟨0, 0, 0⟩ ((o - 0x200) / 4)
    d.kind + 2 ^ 4 * d.col + 2 ^ 8 * d.row
  else P.comm.word o

def Package.gladeWord (P : Package) (o : Nat) : Nat :=
  if o = 0x3100 then P.comm.gen
  else if o = 0x3104 then P.stag.gen
  else if o = 0x3108 then flagBits [(0, P.rt.missed), (1, P.rt.bringup)]
  else if 0x3110 ≤ o ∧ o < 0x3120 then w32 (P.rt.commitTick + 2 ^ 64 * P.rt.commitGen) (o / 4 % 4)
  else P.comm.word o

def Package.pkgWord (P : Package) (now o : Nat) : Nat :=
  if 0x10000 ≤ o then P.stag.word (o - 0x10000)
  else if o < 0x1000 then P.rootWord o
  else if o < 0x2000 then P.tickWord now (o - 0x1000)
  else if o < 0x3000 then P.tokenWord (o - 0x2000)
  else if o < 0x4000 then P.gladeWord o
  else if o < 0x4000 + 0x100 * 49 then Arb.word ((o - 0x4000) / 0x100) (P.arb ((o - 0x4000) / 0x100)) (o % 0x100)
  else if 0x8000 ≤ o ∧ o < 0xC000 then P.linkWord ((o - 0x8000) / 0x400) (o % 0x400)
  else 0

/-! ### NI control range (Table 18.10) -/

/-- The generation block: GL_ORIGIN to SH_SUB_BS of one view. -/
def GenTabs.niWord (g : GenTabs) (k o : Nat) : Nat :=
  let x := g.ni.get {} k
  if o = 0 then x.x0 + 2 ^ 16 * x.y0
  else if o = 4 then x.w + 2 ^ 16 * x.h
  else if o = 8 then x.tag
  else if 0x10 ≤ o ∧ o < 0x1C then (g.subNi.get {} k).word ((o - 0x10) / 4)
  else 0

def Sched.word (S : Sched) (o : Nat) : Nat :=
  let i := o / 4 % 2
  if o = 0 then b2n S.single
  else if o = 4 then S.status
  else if o / 8 = 1 then w32 S.switchTick i
  else if o / 8 = 2 then w32 S.hdrA.value i
  else if o / 8 = 3 then w32 S.hdrB.value i
  else if o = 0x20 then S.idx
  else 0

/-- Identity, records, counters, watermarks and samples of the NI. -/
def Ni.word (n : Ni) (o : Nat) : Nat :=
  if o = 8 then n.bstallOp + 2 ^ 31 * b2n n.bstallV
  else if 0x10 ≤ o ∧ o < 0x20 then w32 n.badPkt (o / 4 % 4)
  else if o = 0x20 then b2n n.badPktV
  else if 0x30 ≤ o ∧ o < 0x40 then w32 n.expire (o / 4 % 4)
  else if o = 0x400 ∨ o = 0x404 then w32 n.smpTick (o / 4 % 2)
  else if 0x410 ≤ o ∧ o < 0x470 then n.cntSnap.get 0 ((o - 0x410) / 4)
  else if 0x480 ≤ o ∧ o < 0x4A0 then
    let w := (n.qmon.get {} ((o - 0x480) / 8)).wm
    if o % 8 = 0 then w.value else w.count
  else if 0x4C0 ≤ o ∧ o < 0x500 then w32 (n.qmon.get {} ((o - 0x4C0) / 16)).snap.value (o / 4 % 4)
  else 0

/-- Twig and collective registers. An inbox reads its latch. -/
def Coll.word (c : Coll) (o : Nat) : Nat :=
  if o = 0x510 ∨ o = 0x514 then w32 c.twSmpTick (o / 4 % 2)
  else if 0x518 ≤ o ∧ o < 0x52C then c.twSnap.get 0 ((o - 0x518) / 4)
  else if 0x580 ≤ o ∧ o < 0x600 then
    let w := (c.inbox.get {} ((o - 0x580) / 8)).mon.wm
    if o % 8 = 0 then w.value else w.count
  else if 0x600 ≤ o ∧ o < 0x700 then w32 (c.inbox.get {} ((o - 0x600) / 16)).latch (o / 4 % 4)
  else if 0x700 ≤ o ∧ o < 0x800 then w32 (c.inbox.get {} ((o - 0x700) / 16)).mon.snap.value (o / 4 % 4)
  else if 0x840 ≤ o ∧ o < 0x880 then w32 (c.loss.getD ((o - 0x840) / 8) 0) (o / 4 % 2)
  else if o = 0x888 ∨ o = 0x88C then w32 c.smpTick (o / 4 % 2)
  else if 0x890 ≤ o ∧ o < 0x8A4 then c.snap.get 0 ((o - 0x890) / 4)
  else if 0x1000 ≤ o ∧ o < 0x1800 then w32 (c.groups.get {} ((o - 0x1000) / 32)).value (o / 4 % 8)
  else if 0x6000 ≤ o ∧ o < 0x8000 then w32 (c.trig.get {} ((o - 0x6000) / 16)).value (o / 4 % 4)
  else if 0x8000 ≤ o ∧ o < 0x8800 then (if o % 8 = 0 then c.ctr.get 0 ((o - 0x8000) / 8) else 0)
  else 0

def Sparse.word (x : Sparse) (o : Nat) : Nat :=
  if o = 0 then x.faultValue
  else if o = 8 ∨ o = 0xC then w32 x.smpTick (o / 4 % 2)
  else if 0x10 ≤ o ∧ o < 0x20 then x.snap.get 0 ((o - 0x10) / 4)
  else 0

def Package.niWord (P : Package) (k o : Nat) : Nat :=
  let b := P.bole k
  if o = 0 then 0x4E49 + 2 ^ 16 * (k % 8) + 2 ^ 20 * (k / 8) + 2 ^ 24 * 0x10
  else if 0x100 ≤ o ∧ o < 0x180 then P.comm.niWord k (o - 0x100)
  else if 0x180 ≤ o ∧ o < 0x200 then P.stag.niWord k (o - 0x180)
  else if 0x200 ≤ o ∧ o < 0x300 then b.sched.word (o - 0x200)
  else if 0x300 ≤ o ∧ o < 0x400 then b.shaper.word (o - 0x300)
  else if o < 0x500 then b.ni.word o
  else if 0x2000 ≤ o ∧ o < 0x6000 then w32 (b.sched.stream ((o - 0x2000) / 16)).value (o / 4 % 4)
  else if 0x9000 ≤ o ∧ o < 0x9020 then b.sp.word (o - 0x9000)
  else if 0xF000 ≤ o ∧ o < 0xF070 then b.cv.word (o - 0xF000)
  else b.coll.word o

/-! ### Paths (R417, R459) -/

/-- Where an offset on a path leads. -/
inductive RegAt
  | fn (f o : Nat)
  | pkg (o : Nat)
  | ni (k o : Nat)
  | config (f o : Nat)
  | nowhere
  deriving DecidableEq, Repr

/-- Offsets of the PF's BAR 0. -/
def barAt (f o : Nat) : RegAt :=
  if o < 0x10000 then .fn f o
  else if f ≠ 0 then .nowhere
  else if o < 0x80000 then .pkg (o - 0x10000)
  else if o < 0x100000 then .ni ((o - 0x80000) / 0x2000) (o % 0x2000)
  else .nowhere

def regAt (path : Path) (o : Nat) : RegAt :=
  match path with
  | .pcie f => barAt f o
  | .mctp => barAt 0 o
  | .program k => if o < 0x10000 then .ni k o else .nowhere
  | .niWrite _ k => if o < 0x10000 then .ni k o else .nowhere
  | .config f => .config f o

/-- Words of configuration space that every function holds unchanged: Revision ID and Class Code (R2, R379), and the
capabilities of Table 15.1 at the model's places (log 7). -/
def cfgCommon : List (Nat × Nat) :=
  [(0x08, 0x12000010), (0x34, 0x40),
   -- PCI Express: 512 B, Extended Tag, FLR; 32.0 GT/s, x16; timeout ranges A to D, 10-Bit Tags
   (0x40, 0x00028010), (0x44, 0x10008022), (0x4C, 0x00000105), (0x64, 0x0003000F),
   -- Power Management; MSI-X: table and pending bits in BAR 0
   (0x80, 0x0003B001), (0xB4, 0x0000E000), (0xB8, 0x0000E800),
   -- Advanced Error Reporting, ARI
   (0x100, 0x14820001), (0x148, 0x1501000E)]

/-- Those of the PF, and of a VF, alone: INTx, ACS as the end of a VF's list, SR-IOV, Device Serial Number, and what 32.0 GT/s
asks for. -/
def cfgOwn (vf : Bool) : List (Nat × Nat) :=
  if vf then [(0x150, 0x0001000D)]
  else [(0x3C, 0x00000100), (0x150, 0x1601000D), (0x160, 0x1A010010), (0x16C, 0x00100010), (0x174, 0x00010001),
    (0x178, 0x64A10000), (0x17C, 0x00000001), (0x180, 0x00000001), (0x1A0, 0x1B010003), (0x1B0, 0x1E010019),
    (0x1E0, 0x21010026), (0x210, 0x2401002A), (0x240, 0x30010027), (0x300, 0x00010025), (0x304, 0x00000001)]

/-- Does a function have a word at an offset? -/
def cfgConst (vf : Bool) (o : Nat) : Nat := (((cfgCommon ++ cfgOwn vf).find? fun x => x.1 == o).map fun x => x.2).getD 0

/-- The configuration header and capabilities of function f (Table 15.1, R379, R382). -/
def Package.configWord (P : Package) (f o : Nat) : Nat :=
  let F := P.fn f
  let C := F.cfg
  let code (b : Nat) : Nat := Nat.log2 (b / 128)
  let pf (w : Nat) : Nat := if f = 0 then w else 0
  if o = 0 then Config.vendorId.toNat + 2 ^ 16 * (if f = 0 then 0x64A0 else 0x64A1)
  else if o = 4 then
    flagBits [(2, F.bme), (8, C.serr), (10, F.intDis), (19, f == 0 && P.inta), (20, true), (28, C.gotCa), (29, C.gotUr)]
  else if o = 0x10 then pf (C.bar % 2 ^ 32 + 4)
  else if o = 0x14 then pf (C.bar / 2 ^ 32)
  else if o = 0x48 then
    C.errEn + flagBits [(4, F.relax)] + 2 ^ 5 * code F.mps + 2 ^ 12 * code F.mrrs + 2 ^ 16 * C.devSta
  else if o = 0x50 then pf (2 ^ 16 * P.rt.speed + 2 ^ 20 * P.rt.width)
  else if o = 0x84 then (if F.d3 then 3 else 0)
  else if o = 0xB0 then 0x11 + flagBits [(30, F.msix.fmask), (31, F.msix.enable)]
  else if o = 0x104 then C.aerSta
  else if o = 0x108 then C.aerMask
  else if o = 0x10C then C.aerSev
  else if o = 0x168 then pf (b2n F.vfEn)
  else if o = 0x170 then pf C.numVfs
  else if o = 0x184 then pf (C.vfBar % 2 ^ 32 + 4)
  else if o = 0x188 then pf (C.vfBar / 2 ^ 32)
  else if o = 0x1A4 then pf (P.rt.serial % 2 ^ 32)
  else if o = 0x1A8 then pf (P.rt.serial / 2 ^ 32 % 2 ^ 32)
  else cfgConst (f != 0) o

/-- Code of Table 16.6 for a block that does not answer. -/
def Package.blockCode (P : Package) (a : RegAt) : Option Nat :=
  if P.thermal then some 5
  else if P.reset = .warm then some 4
  else match a with
    | .fn f _ => if (P.fn f).inReset then some 1 else none
    | .ni k _ => if P.comm.oos.getLsbD k then some 3 else match (P.bole k).st with
      | .off => some 3
      | .inReset => some 2
      | .up => none
    | _ => none

def RegAt.off : RegAt → Nat
  | .fn _ o | .pkg o | .ni _ o | .config _ o => o
  | .nowhere => 0

/-- The 32-bit word at a place as it reads. -/
def Package.regWord (P : Package) (now : Nat) (a : RegAt) : Nat :=
  match P.blockCode a with
  | some c => if a.off = 0 then 0xFFFFFF00 + c else 0xFFFFFFFF
  | none => match a with
    | .fn f o => P.fnWord f o
    | .pkg o => P.pkgWord now o
    | .ni k o => P.niWord k o
    | .config f o => P.configWord f o
    | .nowhere => 0

/-- Is a place the low half of a 64-bit RO register (R461)? -/
def RegAt.roLow : RegAt → Bool
  | .fn _ o => [0x0018, 0x3020, 0x3040, 0xF028, 0xF038].contains o
  | .pkg o => [0x0038, 0x1000, 0x1008].contains o || (decide (0x4000 ≤ o ∧ o < 0x4000 + 0x100 * 49) && o % 0x100 == 0x30) ||
      (decide (0x8000 ≤ o ∧ o < 0xC000) && (o % 0x400 == 0x30 || o % 0x400 == 0x210))
  | .ni _ o => [0x0310, 0x0400, 0x0510, 0x0888, 0x9008, 0xF028, 0xF038].contains o || (decide (0x840 ≤ o ∧ o < 0x880) && o % 8 == 0)
  | _ => false

/-- The next 32-bit place. -/
def RegAt.next : RegAt → RegAt
  | .fn f o => .fn f (o + 4)
  | .pkg o => .pkg (o + 4)
  | .ni k o => .ni k (o + 4)
  | .config f o => .config f (o + 4)
  | .nowhere => .nowhere

/-- Latch the high half that a read of a low half leaves behind. -/
def Package.latchHigh (P : Package) (now : Nat) (path : Path) (o : Nat) : Package :=
  let a := regAt path o
  if a.roLow && (P.blockCode a).isNone then
    { P with latches := (P.latches.filter fun x : HalfLatch => !(decide (x.path = path) && x.offset == o)) ++
        [{ path := path, offset := o, value := P.regWord now a.next }] }
  else P

/-- A word as a path reads it: a latched high half where one is held. -/
def Package.pathWord (P : Package) (now : Nat) (path : Path) (o : Nat) : Nat :=
  match P.latches.find? fun x : HalfLatch => decide (x.path = path) && x.offset + 4 == o with
  | some x => if (P.blockCode (regAt path o)).isNone then x.value else P.regWord now (regAt path o)
  | none => P.regWord now (regAt path o)

/-- The check-value unit that a read on a path reaches, and the offset in it (R272, R273). -/
def cvAt (path : Path) (o : Nat) : Option (CvUnit × Nat) :=
  if 0xF000 ≤ o ∧ o < 0xF070 then
    match path with
    | .pcie f => some (.root f, o - 0xF000)
    | .program k => some (.bole k, o - 0xF000)
    | _ => none
  else none

/-- What a read of n bytes waits for at a check-value unit, and what refuses it there (R282, R283). -/
def Package.cvRead (P : Package) (path : Path) (o n : Nat) : Package :=
  match cvAt path o with
  | some (u, q) =>
    if P.cvReach u then
      let P1 := P.cvDrain u
      if cvReadBad q (8 * n) then P1.updCv u Cv.sizeErr else P1
    else P
  | none => P

/-- A read of n bytes of 0 that a check-value unit refuses, or of the register's word. -/
def Package.readWord (P : Package) (now : Nat) (path : Path) (o n : Nat) : Nat :=
  match cvAt path o with
  | some (_, q) => if cvReadBad q (8 * n) then 0 else (P.cvRead path o n).pathWord now path o
  | none => P.pathWord now path o

/-- A read of one word, or of 8 bytes at once, that starts at an offset: a read of the low half alone latches the high half.
-/
def Package.halfRead (P : Package) (now : Nat) (path : Path) (o n : Nat) : Package :=
  let P1 := P.cvRead path o n
  if n = 4 then P1.latchHigh now path o else P1

def execHalfReadLatch (p : PkgId) (path : Path) (offset : Nat) (s : State) (size : Nat := 4) :
    Host.Outcome State Fault Refusal :=
  .next (s.onLive p fun P => P.halfRead s.now path offset size)

/-! ### Reads that clear (R8) -/

/-- What stands before a read of an RC field: at a check-value unit, of software that reaches it, every earlier write has been
carried out (R282); none where the read reaches nothing. -/
def Package.rcReady (P : Package) (r : RcSel) : Option Package :=
  match r with
  | .cvMatch u | .cvMismatch u => if P.cvReach u then some (P.cvDrain u) else none
  | .overspend | .wmCount _ => some P

/-- The value that the read returns. -/
def Package.rcAnswer (P : Package) (r : RcSel) : Nat :=
  match P.rcReady r with
  | some Q => Q.rcValue r
  | none => 0

def Package.rcRead (P : Package) (r : RcSel) : Package :=
  match P.rcReady r with
  | some Q => Q.rcClear r
  | none => P

def execRcRead (p : PkgId) (r : RcSel) (s : State) : Host.Outcome State Fault Refusal :=
  .next (s.onLive p fun P => P.rcRead r)

end Sys2Proof.Machine
end

