-- ==== Sys2Proof/Machine/Regs.lean ====
section
/-! DEFINITION. Accesses to memory and registers: rows BOLE_LOAD, BOLE_STORE, NI_WRITE, REGISTER_WRITE (R8 to R10, R69,
R384 to R386, R395, R459 to R477). -/

namespace Sys2Proof.Machine

/-! ### Accesses -/

/-- One register access of a write: the place on the path, the first byte of it that is written, how many, and their value
in place. An access covers one 32-bit word, or 8 bytes of a 64-bit register that acts as a whole. -/
structure RegAcc where
  off : Nat
  lo : Nat
  n : Nat
  v : Nat
  deriving DecidableEq, Repr

/-- The 32-bit word w of a write of some bytes from offset o on. -/
def accOf (o : Nat) (data : List Byte) (w : Nat) : RegAcc :=
  let lo := o - 4 * w
  let bs := (data.drop (4 * w - o)).take (4 - lo)
  { off := 4 * w, lo := lo, n := bs.length, v := leNat bs * 256 ^ lo }

def accsOf (o : Nat) (data : List Byte) : List RegAcc :=
  if data.isEmpty then []
  else (List.range ((o + data.length - 1) / 4 + 1 - o / 4)).map fun i => accOf o data (o / 4 + i)

def RegAcc.full (x : RegAcc) : Bool := x.n == 4

/-- Offsets whose 64-bit write is one access: TK_SWITCH_TICK, TK_PHASE, NI_SCHED_BANK, and the check-value units (R274). -/
def RegAt.whole : RegAt → Bool
  | .pkg o => o == 0x1020 || o == 0x1028
  | .ni _ o => o == 0x228 || (decide (0xF000 ≤ o ∧ o < 0xF070) && o % 8 == 0)
  | .fn _ o => decide (0xF000 ≤ o ∧ o < 0xF070) && o % 8 == 0
  | _ => false

/-- Join the two words of such a register. -/
def joinAccs (path : Path) : List RegAcc → List RegAcc
  | x :: y :: rest =>
    if (regAt path x.off).whole && x.full && y.full then
      { off := x.off, lo := 0, n := 8, v := x.v + 2 ^ 32 * y.v } :: joinAccs path rest
    else x :: joinAccs path (y :: rest)
  | l => l

/-- A 32-bit register with the bytes written replaced. -/
def RegAcc.merge (x : RegAcc) (old : Nat) : Nat :=
  let m := (256 ^ x.n - 1) * 256 ^ x.lo
  ((old ||| m) ^^^ m) ||| x.v

/-- Word i of a 64-bit register replaced. -/
def putW32 (v i w : Nat) : Nat := if i = 0 then v / 2 ^ 32 * 2 ^ 32 + w else v % 2 ^ 32 + w * 2 ^ 32

/-- A 64-bit register after an access to its word i: each 32-bit write takes effect on its own half (R274, R461). -/
def RegAcc.merge64 (x : RegAcc) (old i : Nat) : Nat :=
  if x.n = 8 then x.v else putW32 old i (x.merge (w32 old i))

/-- A register wider than 64 bits (R461): the bytes written so far, from init where none has been; the whole at the write
of the last 32-bit word. base is the register's offset on the path. -/
def Package.assemble (P : Package) (path : Path) (base n init : Nat) (x : RegAcc) : Package × Option Nat :=
  let held (q : PartReg) : Bool := decide (q.path = path) && q.offset == base
  let old := match P.parts.find? held with
    | some q => leNat q.bytes
    | none => init
  let i := (x.off - base) / 4
  let v := old % 2 ^ (32 * i) + 2 ^ (32 * i) * x.merge (w32 old i) + old / 2 ^ (32 * (i + 1)) * 2 ^ (32 * (i + 1))
  let rest := P.parts.filter fun q => !held q
  if x.off + 4 = base + n then ({ P with parts := rest }, some v)
  else ({ P with parts := rest ++ [{ path := path, offset := base, bytes := leBytes n v }] }, none)

/-! ### Function space (Table 18.4, Table 15.4, Table 16.1) -/

/-- What FN_SETUP_LOCK leaves open to PCIe (R386). -/
def fnOpen (o : Nat) : Bool :=
  o == 0xC || o == 0x10 || decide (0x3000 ≤ o ∧ o < 0x4000) || decide (0xE000 ≤ o)

def Package.rwl (P : Package) (f : Nat) (g : Func → Func) : Package := if (P.fn f).lock then P else P.updFn f g

def Package.ringReg (P : Package) (f r q : Nat) (x : RegAcc) (ctr : Nat) : Package :=
  let R := P.ring f r
  let i := q / 4 % 2
  if q < 8 then P.updRing f r fun R => { R with base := x.merge64 R.base i }
  else if q < 0x10 then P.updRing f r fun R => { R with dbr := x.merge64 R.dbr i }
  else if q < 0x18 then P.updRing f r fun R => { R with cq := x.merge64 R.cq i }
  else if q = 0x18 then P.ringCtrl f r (x.merge (R.word 0x18)) ctr
  else P

def Package.causeReg (P : Package) (f o : Nat) (x : RegAcc) : Package :=
  let F := P.fn f
  let n := x.v
  if o = 0x3004 then (P.rwl f fun F => { F with sumEn := bits (x.merge F.sumEn) 3 0 }).vector f
  else if o = 0x3008 then (if bitAt n 0 then P.intAck f else P)
  else if o = 0x3010 then P.updFn f fun F => { F with ringLeaf := F.ringLeaf &&& ~~~ BitVec.ofNat 16 n }
  else if o = 0x3014 then (P.rwl f fun F => { F with ringEn := BitVec.ofNat 16 (x.merge F.ringEn.toNat) }).vector f
  else if o = 0x3018 then P.updFn f fun F => { F with funcLeaf := F.funcLeaf &&& ~~~ BitVec.ofNat 5 n }
  else if o = 0x301C then (P.rwl f fun F => { F with funcEn := BitVec.ofNat 5 (x.merge F.funcEn.toNat) }).vector f
  else if o = 0x3028 then (P.rwl f fun F => { F with boleEn := BitVec.ofNat 8 (x.merge F.boleEn.toNat) }).vector f
  else if o = 0x3030 ∧ f = 0 then P.updFn 0 fun F => { F with pkgLeaf := F.pkgLeaf &&& ~~~ BitVec.ofNat 7 n }
  else if o = 0x3034 ∧ f = 0 then (P.rwl 0 fun _ => { F with pkgEn := BitVec.ofNat 7 (x.merge F.pkgEn.toNat) }).vector 0
  else if 0x3100 ≤ o ∧ o < 0x3300 ∧ o % 8 = 0 ∧ P.boleOfFn f ((o - 0x3100) / 8) then
    P.updBole ((o - 0x3100) / 8) fun b => { b with cause := b.cause.clear (BitVec.ofNat 8 (n % 64)) }
  else P

/-- The MSI-X table of one entry. -/
def Package.msixReg (P : Package) (f o : Nat) (x : RegAcc) : Package :=
  let set (g : Msix → Msix) : Package := P.updFn f fun F => { F with msix := g F.msix }
  if o = 0xE000 ∨ o = 0xE004 then set fun m => { m with addr := x.merge64 m.addr (o / 4 % 2) / 4 * 4 }
  else if o = 0xE008 then set fun m => { m with data := x.merge m.data }
  else if o = 0xE00C then (set fun m => { m with vmask := bitAt (x.merge (b2n m.vmask)) 0 }).vector f
  else P

/-- A store to a check-value unit (R279): its width is what the access covers. -/
def Package.cvStore (P : Package) (u : CvUnit) (o : Nat) (x : RegAcc) : Package :=
  P.cvPut u (o + x.lo) (8 * x.n) (x.v / 256 ^ x.lo)

/-- A driver's write to function space but FN_ABORT. -/
def Package.fnReg (P : Package) (f : FnIx) (o : Nat) (x : RegAcc) (ctr : Nat) : Package :=
  if (P.fn f).lock && !fnOpen o then P
  else if o = 4 then P.updFn f fun F => { F with badCfg := F.badCfg && !bitAt x.v 1, escalated := F.escalated && !bitAt x.v 2 }
  else if o = 8 then (if bitAt x.v 0 then P.lockFn f else P)
  else if o = 0xC then P.nudge f x.v
  else if 0x1000 ≤ o ∧ o < 0x1400 then P.ringReg f ((o - 0x1000) / 0x40) (o % 0x40) x ctr
  else if o = 0x2000 ∨ o = 0x2004 then P.updFn f fun F => { F with ovfBase := x.merge64 F.ovfBase (o / 4 % 2) / 4096 * 4096 }
  else if o = 0x2008 then P.updFn f fun F =>
    let n := bits (x.merge F.ovfSize) 19 0
    if n ≤ 524288 then { F with ovfSize := n } else F
  else if 0x3000 ≤ o ∧ o < 0x4000 then P.causeReg f o x
  else if 0xE000 ≤ o ∧ o < 0xF000 then P.msixReg f o x
  else if 0xF000 ≤ o ∧ o < 0xF070 then P.cvStore (.root f) (o - 0xF000) x
  else P

/-- FN_ABORT (R408): both bits may be set. -/
def State.abortReg (s : State) (p f v : Nat) : State :=
  let s1 := if bitAt v 0 then s.abortGlade p f else s
  if bitAt v 1 then s1.abortRings p f else s1

def State.fnReg (s : State) (p : Nat) (f : FnIx) (o : Nat) (x : RegAcc) : State :=
  if o = 0x10 then s.abortReg p f x.v else s.bump.updPkg p fun P => P.fnReg f o x s.freeCtr

/-- The Rootstock's fields of function space: the budgets of the PF (R73, R463). -/
def Package.budgetReg (P : Package) (o : Nat) (x : RegAcc) : Package :=
  let wr (view : View) (f : Nat) : Package := P.budgetWrite f view (bits (x.merge ((P.view view).budget.get 0 f)) 15 0)
  if 0x2010 ≤ o ∧ o < 0x2054 then wr .committed ((o - 0x2010) / 4)
  else if 0x2090 ≤ o ∧ o < 0x20D4 then wr .staged ((o - 0x2090) / 4)
  else P

/-! ### Package space (Tables 18.5 to 18.8) -/

/-- What the PF's driver may write there: RW1C bits and watermarks (R460). -/
def Package.pkgClear (P : Package) (o : Nat) (x : RegAcc) : Package :=
  let l := (o - 0x8000) / 0x400
  let q := o % 0x400
  if o = 0x28 then (if bitAt x.v 1 then P.updRt fun r => { r with zeroDone := false } else P)
  else if o = 0x1010 then (if bitAt x.v 6 then { P with tk := { P.tk with switchRefused := false } } else P)
  else if o = 0x3108 then (if bitAt x.v 0 then P.updRt fun r => { r with missed := false } else P)
  else if 0x4000 ≤ o ∧ o < 0x4000 + 0x100 * 49 ∧ o % 0x100 = 8 then
    let i := (o - 0x4000) / 0x100
    P.wmWrite (.arb (Fin.ofNat 49 i)) (x.merge ((P.arb i).qmon.wm.value &&& 0x4FFFF))
  else if 0x8000 ≤ o ∧ o < 0xC000 ∧ q = 0x24 then
    (if bitAt x.v 31 then P.updLink l fun L => { L with escapeV := false } else P)
  else if 0x8000 ≤ o ∧ o < 0xC000 ∧ q = 0x204 then
    (if bitAt x.v 0 then P.updShaper (.link (Fin.ofNat 16 l)) fun sh => { sh with badCfg := false } else P)
  else P

/-- SH_SUB_CIR, SH_SUB_PIR, SH_SUB_BS, by word. -/
def Package.subReg (P : Package) (site : ShSite) (view : View) (i : Nat) (x : RegAcc) : Package :=
  let n := x.merge (((P.view view).subRates site).word i)
  if i = 0 then P.shaperField site .subCir view n
  else if i = 1 then P.shaperField site .subPir view n
  else if i = 2 then P.shaperField site .subBs view n
  else P

/-- A shaper's fields but those of the subscriber, by offset from SH_CTRL. -/
def Package.shaperReg (P : Package) (site : ShSite) (q now : Nat) (x : RegAcc) : Package :=
  let sh := P.shaper site
  let n := x.merge (sh.word q)
  if q = 0 then P.shEnable site (bitAt n 0) now
  else if q = 4 then (if bitAt x.v 0 then P.updShaper site fun sh => { sh with badCfg := false } else P)
  else if q = 8 then P.shaperField site .laneW .committed n
  else if 0x40 ≤ q ∧ q < 0x80 then
    let s : Fin 2 := Fin.ofNat 2 (q / 32)
    match q % 32 / 4 with
    | 0 => P.shaperField site (.cfg s) .committed n
    | 1 => P.shaperField site (.cir s) .committed n
    | 2 => P.shaperField site (.pir s) .committed n
    | 3 => P.shaperField site (.bs s) .committed n
    | 4 => P.shaperField site (.spacing s) .committed n
    | _ => P
  else P

/-- GL_HWA: an allocation that passes 64 MiB is refused with BADCFG of the PF (Table 18.7). -/
def Package.hwaReg (P : Package) (view : View) (h : Half) (slot n : Nat) : Package :=
  let a : Hwa := { base := bits n 5 0, size := bits n 22 16 }
  if !P.viewOpen view then P
  else if 64 < a.base + a.size then P.updFn 0 fun F => { F with badCfg := true }
  else P.updView view fun g => match h with
    | .west => { g with west := g.west.set slot a }
    | .east => { g with east := g.east.set slot a }

/-- A generation-carrying entry of package space, in one view (R463). Engine 0 stays with ring 0 of the PF (R387). -/
def Package.genReg (P : Package) (view : View) (o : Nat) (x : RegAcc) (ctr : Nat) : Package :=
  let n := x.merge ((P.view view).word o)
  let q := o % 0x400
  if o = 0x18 ∨ o = 0x1C then P.updView view fun g => { g with oos := BitVec.ofNat 64 (putW32 g.oos.toNat (o / 4 - 6) n) }
  else if 0x40 ≤ o ∧ o < 0x80 then P.updView view fun g => { g with vfGlade := g.vfGlade.set ((o - 0x40) / 4 + 1) (bits n 14 0) }
  else if 0x104 ≤ o ∧ o < 0x200 then
    let P1 := P.updView view fun g => { g with
      engMap := g.engMap.set ((o - 0x100) / 4) { fn := bits n 4 0, ring := bits n 11 8, v := bitAt n 15 } }
    if view = .committed then P1.mapRings ctr else P1
  else if 0x3000 ≤ o ∧ o < 0x3100 ∧ o % 16 = 0 then P.hwaReg view .west ((o - 0x3000) / 16) n
  else if 0x3000 ≤ o ∧ o < 0x3100 ∧ o % 16 = 4 then P.hwaReg view .east ((o - 0x3000) / 16) n
  else if 0x8000 ≤ o ∧ o < 0xC000 ∧ q = 0x18 then P.updView view fun g => { g with owner := g.owner.set ((o - 0x8000) / 0x400) (bits n 14 0) }
  else if 0x8000 ≤ o ∧ o < 0xC000 ∧ 0x280 ≤ q ∧ q < 0x28C then
    P.subReg (.link (Fin.ofNat 16 ((o - 0x8000) / 0x400))) view ((q - 0x280) / 4) x
  else P

/-- Tick block, fields marked S. -/
def Package.tickReg (P : Package) (now q : Nat) (x : RegAcc) : Package :=
  let t := P.tk
  let n := x.merge (P.tickWord now q)
  let i := q / 4 % 2
  if q = 0x10 then P.groveFlags (bitAt n 4) (bitAt n 5)
  else if q / 8 = 4 then { P with tk := t.setSwitch (x.merge64 t.switchTick i % 2 ^ 48) }
  else if q / 8 = 5 then { P with tk := t.phase now (x.merge64 (t.time now) i) }
  else P

def Package.tokenReg (P : Package) (q : Nat) (x : RegAcc) : Package :=
  let t := P.tok
  let n := x.merge (P.tokenWord q)
  let i := q / 4 % 2
  if q = 4 then (if bits n 3 0 ≤ 14 then { P with tok := { t with maxStep := bits n 3 0 } } else P)
  else if q = 8 then { P with tok := { t with burstEn := bitAt n 0 } }
  else if q = 0x20 then { P with tok := { t with baseNext := bits n 19 0 } }
  else if q = 0x24 then { P with tok := { t with capNext := bits n 19 0 } }
  else if q = 0x28 ∨ q = 0x2C then { P with tok := { t with nextTick := x.merge64 t.nextTick i % 2 ^ 48 } }
  else if q = 0x30 ∨ q = 0x34 then { P with tok := { t with firstTick := x.merge64 t.firstTick i % 2 ^ 48 } }
  else P

/-- GL_GEN_COMMITTED (during bring-up alone, R463), GL_GEN_STAGED, GL_DISCARD and GL_COMMIT. off is the offset on the path. -/
def Package.gladeReg (P : Package) (path : Path) (o : Nat) (x : RegAcc) : Package :=
  if o = 0x3100 then P.updView .committed fun g => { g with gen := x.merge g.gen }
  else if o = 0x3104 then P.updView .staged fun g => { g with gen := x.merge g.gen }
  else if o = 0x310C then (if bitAt x.v 0 then P.discard else P)
  else if 0x3110 ≤ o ∧ o < 0x3120 then
    match P.assemble path (x.off - (o - 0x3110)) 16 (P.rt.commitTick + 2 ^ 64 * P.rt.commitGen) x with
    | (P1, some v) => P1.updRt fun r => { r with commitTick := bits v 47 0, commitGen := bits v 95 64, commitAt := some P.tick }
    | (P1, none) => P1
  else P

/-- LK_CTRL. -/
def Link.ctrl (L : Link) (x : RegAcc) : Link :=
  let dis := bitAt (x.merge (4 * b2n L.disable)) 2
  let L1 := if dis = L.disable then L else L.setDisable dis
  let L2 := if bitAt x.v 1 then L1.fulltrain else L1
  let L3 := if bitAt x.v 0 then L2.retrain else L2
  if bitAt x.v 3 then L3.holdSend (bits x.v 5 4) (bits x.v 15 8) else L3

/-- Fields marked S of one package, but those that reach past it. -/
def Package.pkgReg (P : Package) (path : Path) (now o : Nat) (x : RegAcc) (ctr : Nat) : Package :=
  let l := (o - 0x8000) / 0x400
  let q := o % 0x400
  let a := (o - 0x4000) / 0x100
  if 0x10000 ≤ o then P.genReg .staged (o - 0x10000) x ctr
  else if o = 4 then P.setPosition (x.merge (P.rootWord 4))
  else if o = 0x20 then P.ceilWrite (bits (x.merge P.rt.ovfCeil) 15 0)
  else if o = 0x24 then (if bitAt x.v 8 then P.zeroStart (bits x.v 3 0) else P)
  else if o = 0x34 then (if bitAt x.v 0 then P.lockRt else P)
  else if 0x1000 ≤ o ∧ o < 0x2000 then P.tickReg now (o - 0x1000) x
  else if 0x2000 ≤ o ∧ o < 0x3000 then P.tokenReg (o - 0x2000) x
  else if 0x3100 ≤ o ∧ o < 0x3120 then P.gladeReg path o x
  else if 0x4000 ≤ o ∧ a < 49 then
    (if o % 0x100 = 0 then (if P.rt.lock then P else P.updArb a fun A => Arb.writeCtrl a A (x.merge (Arb.word a A 0)))
     else if 0x10 ≤ o % 0x100 ∧ o % 0x100 < 0x28 then
       P.updArb a fun A => Arb.writeClass a A ((o % 0x100 - 0x10) / 4) (x.merge (Arb.word a A (o % 0x100)))
     else P)
  else if 0x8000 ≤ o ∧ o < 0xC000 ∧ q = 0 then P.updLink l fun L => L.ctrl x
  else if 0x8000 ≤ o ∧ o < 0xC000 ∧ 0x200 ≤ q ∧ q < 0x280 then P.shaperReg (.link (Fin.ofNat 16 l)) (q - 0x200) now x
  else P.genReg .committed o x ctr

/-- A write of the Rootstock to package space. -/
def State.pkgReg (s : State) (p : Nat) (path : Path) (o : Nat) (x : RegAcc) : State :=
  if 0x200 ≤ o ∧ o < 0x280 then s.fieldDefect p ((o - 0x200) / 4) (x.merge ((s.pkg p).rootWord o))
  else if o = 0x2C then s.vfAborts p (BitVec.ofNat 16 x.v)
  else if o = 0x101C then s.setPeriodNext p (bits (x.merge (s.pkg p).tk.periodNext) 6 0)
  else if o = 0x1018 then s.setPeriod p (bits (x.merge (s.pkg p).tk.period) 6 0)
  else s.bump.updPkg p fun P => (P.pkgClear o x).pkgReg path s.now o x s.freeCtr

/-! ### NI control range (Table 18.10) -/

/-- Stream descriptor from its register value; CREDIT stays (R475). -/
def Stream.write (d : Stream) (v : Nat) : Stream :=
  let sel := bitAt v 119
  { d with eject := bitAt v 0, addr := 64 * bits v 30 14, advance := 64 * bits v 54 38, nbuf := bits v 72 64,
           flits := bits v 91 80, flag := if sel then bits v 103 96 else 16 * bits v 118 100, flagSel := sel }

/-- GL_ORIGIN, GL_SIZE, GL_TAG of one view. -/
def NiGlade.write (g : NiGlade) (i n : Nat) : NiGlade :=
  if i = 0 then { g with x0 := bits n 8 0, y0 := bits n 23 16 }
  else if i = 1 then { g with w := bits n 9 0, h := bits n 24 16 }
  else if i = 2 then { g with tag := bits n 14 0 }
  else g

/-- The generation block: marked S. -/
def Package.niGenReg (P : Package) (k : BoleIx) (o : Nat) (x : RegAcc) : Package :=
  let view : View := if o < 0x180 then .committed else .staged
  let q := o % 0x80
  if q < 0xC then P.updView view fun g => { g with ni := g.ni.upd {} k fun y => y.write (q / 4) (x.merge (g.niWord k q)) }
  else if 0x10 ≤ q ∧ q < 0x1C then P.subReg (.ni k) view ((q - 0x10) / 4) x
  else P

/-- NI_SCHED_BANK: the low word of an entry, and the high word, which ends the write; or both at once (log 14). -/
def Sched.bankHalf (S : Sched) (i : Nat) (x : RegAcc) : Sched :=
  let v := BitVec.ofNat 64 (x.merge64 (S.entries.get 0 S.idx).toNat i)
  if x.n = 8 ∨ i = 1 ∨ bankHolds S.active S.idx then S.bankWrite v
  else { S with entries := S.entries.set S.idx v }

def Package.schedReg (P : Package) (k o : Nat) (x : RegAcc) : Package :=
  let S := P.sched k
  let n := x.merge (S.word (o - 0x200))
  let i := o / 4 % 2
  if o = 0x200 then
    let P1 := if bitAt n 0 = S.single then P else P.schedMode k (bitAt n 0)
    let P2 := if bitAt x.v 1 then P1.schedArm k else P1
    if bitAt x.v 2 then P2.schedStop k else P2
  else if o = 0x204 then P.updSched k fun S => { S with
    badTable := S.badTable && !bitAt x.v 1, lateArm := S.lateArm && !bitAt x.v 2, mismatch := S.mismatch && !bitAt x.v 3,
    activeWr := S.activeWr && !bitAt x.v 6 }
  else if o / 8 = 0x41 then P.updSched k fun S => { S with switchTick := x.merge64 S.switchTick i % 2 ^ 48 }
  else if o / 8 = 0x42 then P.updSched k fun S => S.hdrWrite false (x.merge64 S.hdrA.value i)
  else if o / 8 = 0x43 then P.updSched k fun S => S.hdrWrite true (x.merge64 S.hdrB.value i)
  else if o = 0x220 then P.updSched k fun S => { S with idx := n % 8192 }
  else if o / 8 = 0x45 then P.updSched k fun S => S.bankHalf i x
  else if o = 0x230 then P.sready k (bits x.v 9 0)
  else P

/-- Registers wider than 64 bits: TW_SEND, CL_LAUNCH, CL_GROUP, NI_STREAM, CL_TRIG (R461). -/
def Package.wideReg (P : Package) (e : Env) (path : Path) (k o : Nat) (x : RegAcc) : Package :=
  let asm (at_ n init : Nat) (g : Package → Nat → Package) : Package :=
    match P.assemble path (x.off - (o - at_)) n init x with
    | (P1, some v) => g P1 v
    | (P1, none) => P1
  if 0x500 ≤ o ∧ o < 0x510 then asm 0x500 16 0 fun P v => P.twSend e k (Eft.ofValue v)
  else if 0x800 ≤ o ∧ o < 0x840 then asm 0x800 64 0 fun P v => P.launch e k (leBytes 64 v) true
  else if 0x1000 ≤ o ∧ o < 0x1800 then
    let g := (o - 0x1000) / 32
    asm (0x1000 + 32 * g) 32 ((P.coll k).group g).value fun P v => P.updColl k fun c => c.writeGroup g v
  else if 0x2000 ≤ o ∧ o < 0x6000 then
    let n := (o - 0x2000) / 16
    asm (0x2000 + 16 * n) 16 ((P.sched k).stream n).value fun P v =>
      P.updSched k fun S => { S with streams := S.streams.upd {} n fun d => d.write v }
  else if 0x6000 ≤ o ∧ o < 0x8000 then
    let t := (o - 0x6000) / 16
    asm (0x6000 + 16 * t) 16 ((P.coll k).trig.get {} t).value fun P v =>
      P.updColl k fun c => c.writeTrig t v e.now
  else P

/-- A write to an NI register; root tells the Rootstock's from the others. -/
def Package.niReg (P : Package) (e : Env) (path : Path) (root : Bool) (k : BoleIx) (o : Nat) (x : RegAcc) : Package :=
  if o = 4 then (if bitAt x.v 0 then P.setBoleLeaf k bcSignal else P)
  else if o = 8 then (if bitAt x.v 31 then P.updBole k fun b => b.updNi fun n => { n with bstallV := false } else P)
  else if o = 0x20 then (if bitAt x.v 0 then P.updBole k fun b => b.updNi fun n => { n with badPktV := false } else P)
  else if 0x100 ≤ o ∧ o < 0x200 then (if root then P.niGenReg k o x else P)
  else if 0x200 ≤ o ∧ o < 0x300 then P.schedReg k o x
  else if 0x300 ≤ o ∧ o < 0x400 then P.shaperReg (.ni k) (o - 0x300) e.now x
  else if 0x480 ≤ o ∧ o < 0x4A0 ∧ o % 8 = 0 then
    let v := (o - 0x480) / 8
    P.wmWrite (.inj k (Fin.ofNat 4 v)) (x.merge (((P.bole k).ni.qmon.get {} v).wm.value &&& 0x4FFFF))
  else if 0x580 ≤ o ∧ o < 0x600 ∧ o % 8 = 0 then
    let i := (o - 0x580) / 8
    P.wmWrite (.inbox k (Fin.ofNat 16 i)) (x.merge (((P.coll k).inbox.get {} i).mon.wm.value &&& 0x4FFFF))
  else if o = 0x880 then P.updColl k fun c => { c with ctr := c.ctr.set (bits x.v 7 0) 0 }
  else if 0x8000 ≤ o ∧ o < 0x8800 then (if o % 8 = 0 then P.updColl k fun c => c.addCtr ((o - 0x8000) / 8) x.v else P)
  else if o = 0x9000 then (if bitAt x.v 0 then P.updBole k fun b => { b with sp := { b.sp with faultV := false } } else P)
  else if 0xF000 ≤ o ∧ o < 0xF070 then
    (match path with
     | .program _ => P.cvStore (.bole k) (o - 0xF000) x
     | _ => P)
  else P.wideReg e path k o x

/-! ### Configuration space (R378, R380, R422 to R424; places: log 7) -/

/-- Max_Payload_Size or Max_Read_Request_Size from its code; a code past the top is ignored. -/
def sizeOf (old code top : Nat) : Nat := if code ≤ top then 128 * 2 ^ code else old

def State.busMaster (s : State) (p f : Nat) (en : Bool) : State :=
  if en = ((s.pkg p).fn f).bme then s
  else if en then s.updPkg p fun P => (P.updFn f fun F => { F with bme := true }).vector f
  else s.bump.updPkg p fun P => (P.updFn f fun F => { F with bme := false }).masterOff f s.freeCtr

/-- D0 or D3hot: the return to D0 performs a function reset (R380). -/
def State.powerState (s : State) (p f code : Nat) : State :=
  let F := (s.pkg p).fn f
  if code = 3 ∧ F.d3 = false then
    s.bump.updPkg p fun P => (P.updFn f fun F => { F with d3 := true }).masterOff f s.freeCtr
  else if code = 0 ∧ F.d3 then (s.updPkg p fun P => P.updFn f fun F => { F with d3 := false }).functionReset p f
  else s

/-- VF Enable cleared: a function reset of every VF (Table 16.7). -/
def State.vfEnable (s : State) (p : Nat) (en : Bool) : State :=
  let s1 := s.updPkg p fun P => P.updFn 0 fun F => { F with vfEn := en }
  if ((s.pkg p).fn 0).vfEn && !en then (List.range 16).foldl (fun s i => s.functionReset p (i + 1)) s1 else s1

def State.configReg (s : State) (p f o : Nat) (x : RegAcc) : State :=
  let n := x.merge ((s.pkg p).configWord f o)
  let setCfg (g : PciCfg → PciCfg) : State := s.updPkg p fun P => P.updFn f fun F => { F with cfg := g F.cfg }
  if o = 4 then
    (s.updPkg p fun P => P.updFn f fun F => { F with
      intDis := bitAt n 10
      cfg := { F.cfg with serr := bitAt n 8, gotCa := F.cfg.gotCa && !bitAt x.v 28, gotUr := F.cfg.gotUr && !bitAt x.v 29 } }).busMaster
        p f (bitAt n 2)
  else if o = 0x48 then
    let s1 := s.updPkg p fun P => P.updFn f fun F => { F with
      relax := bitAt n 4, mps := sizeOf F.mps (bits n 7 5) 2, mrrs := sizeOf F.mrrs (bits n 14 12) 5
      cfg := { F.cfg with errEn := bits n 3 0, devSta := F.cfg.devSta &&& (15 ^^^ bits x.v 19 16) } }
    if bitAt x.v 15 then s1.functionReset p f else s1
  else if o = 0x104 then setCfg fun C => { C with aerSta := C.aerSta &&& ((2 ^ 32 - 1) ^^^ x.v) }
  else if o = 0x108 then setCfg fun C => { C with aerMask := n }
  else if o = 0x10C then setCfg fun C => { C with aerSev := n }
  else if f = 0 ∧ (o = 0x10 ∨ o = 0x14) then
    setCfg fun C => { C with bar := putW32 C.bar ((o - 0x10) / 4) n / 2 ^ 20 * 2 ^ 20 }
  else if f = 0 ∧ (o = 0x184 ∨ o = 0x188) then
    setCfg fun C => { C with vfBar := putW32 C.vfBar ((o - 0x184) / 4) n / 2 ^ 16 * 2 ^ 16 }
  else if f = 0 ∧ o = 0x170 then setCfg fun C => { C with numVfs := bits n 15 0 }
  else if o = 0x84 then s.powerState p f (bits n 1 0)
  else if o = 0xB0 then s.updPkg p fun P =>
    (P.updFn f fun F => { F with msix := { F.msix with fmask := bitAt n 30, enable := bitAt n 31 } }).vector f
  else if o = 0x168 ∧ f = 0 then s.vfEnable p (bitAt n 0)
  else s

/-! ### Paths (R384 to R386, R417, R460) -/

/-- Does a path reach the package: it runs, or holds a package reset in which the Rootstock writes RT_POSITION and
RT_FIELD_DEFECT; PCIe needs its link; a program has to run. -/
def Package.reaches (P : Package) (path : Path) (a : RegAt) : Bool :=
  match path with
  | .mctp => P.live || (P.powered && !P.thermal && (match a with | .pkg o => o == 4 || decide (0x200 ≤ o ∧ o < 0x280) | _ => false))
  | .pcie _ | .config _ => P.live && P.rt.linkUp
  | .program k => P.live && (P.bole k).running
  | .niWrite _ _ => P.live

/-- One access. A block that does not answer discards it (R417). -/
def State.regAcc (s : State) (p : Nat) (path : Path) (x : RegAcc) : State :=
  let P := s.pkg p
  let e := s.env p
  let a := regAt path x.off
  if !P.reaches path a then s
  else match path, a with
    | .mctp, .pkg o => if P.thermal then s else s.pkgReg p path o x
    | _, _ =>
      if (P.blockCode a).isSome then s
      else match path, a with
        | .config f, _ => s.configReg p f x.off x
        | .mctp, .fn _ o => s.updPkg p fun P => P.budgetReg o x
        | .pcie f, .fn _ o => s.fnReg p f o x
        | .pcie _, .pkg o => s.updPkg p fun P => P.pkgClear o x
        | .mctp, .ni k o => s.updPkg p fun P => P.niReg e path true (Fin.ofNat 64 k) o x
        | .niWrite _ _, .ni k o => if niHost o then s.updPkg p fun P => P.niReg e path false (Fin.ofNat 64 k) o x else s
        | _, .ni k o => s.updPkg p fun P => P.niReg e path false (Fin.ofNat 64 k) o x
        | _, _ => s

/-- A request that one path carries: within one aligned 64-byte block on PCIe, and to NI registers (R69, R385). -/
def accessFits (path : Path) (o n : Nat) : Bool :=
  match path with
  | .mctp | .config _ => true
  | _ => decide (o % 64 + n ≤ 64)

/-- A write of bytes: each register access in ascending address order (R385). -/
def State.regWrite (s : State) (p : Nat) (path : Path) (o : Nat) (data : List Byte) : State :=
  if accessFits path o data.length then
    (joinAccs path (accsOf o data)).foldl (fun s x => s.regAcc p path x) s
  else s

def execRegisterWrite (p : PkgId) (path : Path) (offset : Nat) (data : List Byte) (s : State) :
    Host.Outcome State Fault Refusal :=
  .next (s.regWrite p path offset data)

/-! ### NI_WRITE (R395, Table 15.9) -/

/-- COUNT values from descriptor byte 32 on, in ascending address order. -/
def State.niWrite (s : State) (p : Nat) (f : FnIx) (d : Desc) : State :=
  (List.range d.b28).foldl (fun s i =>
    s.regWrite p (.niWrite f (Fin.ofNat 64 d.bole)) ((d.loc - 0x01000000) / 4 * 4 + 4 * i) (leBytes 4 (fld d.bytes (32 + 4 * i) 4))) s

def execNiWrite (p : PkgId) (f : FnIx) (r : RingIx) (n : BitVec 32) (s : State) : Host.Outcome State Fault Refusal :=
  let P := s.pkg p
  if P.live && !(P.fn f).inReset then
    match P.execDesc f r n.toNat 5 with
    | some d =>
      if P.targetDown d then .next (s.updPkg p fun P => P.endDesc f r n.toNat 3 0)
      else .next ((s.niWrite p f d).updPkg p fun P => P.endDesc f r n.toNat 0 0)
    | none => .next s
  else .next s

/-! ### Loads and stores of a bole's program (R69, Table 3.3) -/

def Package.setLoaded (P : Package) (k : Nat) (bs : List Byte) : Package := P.updBole k fun b => { b with loaded := bs }

/-- A read of an RC counter clears it (R8). -/
def Package.niReadClear (P : Package) (k : BoleIx) (o : Nat) : Package :=
  if 0x480 ≤ o ∧ o < 0x4A0 ∧ o % 8 = 4 then P.rcClear (.wmCount (.inj k (Fin.ofNat 4 ((o - 0x480) / 8))))
  else if 0x580 ≤ o ∧ o < 0x600 ∧ o % 8 = 4 then P.rcClear (.wmCount (.inbox k (Fin.ofNat 16 ((o - 0x580) / 8))))
  else P

/-- Read 32-bit words in ascending order; a low half latches its high half (R461). -/
def Package.readWords (P : Package) (now : Nat) (k : BoleIx) : List Nat → Package × List Byte
  | [] => (P, [])
  | o :: os =>
    let v := P.pathWord now (.program k) o
    let (P1, bs) := ((P.latchHigh now (.program k) o).niReadClear k o).readWords now k os
    (P1, leBytes 4 v ++ bs)

/-- An inbox pops when the load covers bytes 0 to 7 of its register (Table 18.10). -/
def Package.popCovered (P : Package) (e : Env) (k o n : Nat) : Package :=
  ((List.range 16).filter fun i => decide (o ≤ 0x600 + 16 * i ∧ 0x600 + 16 * i + 8 ≤ o + n)).foldl (fun P i => P.inboxPop e k i) P

/-- A load of the bole's check-value unit, after every write that came before it (R282, R283). -/
def Package.cvLoad (P : Package) (now : Nat) (k : BoleIx) (o n : Nat) : Package :=
  let u : CvUnit := .bole k
  let P1 := P.cvDrain u
  let q := o - 0xF000
  if cvReadBad q (8 * n) then (P1.updCv u Cv.sizeErr).setLoaded k (List.replicate n 0)
  else if cvIsReg q && decide (n % 4 = 0) then
    let (P2, bs) := P1.readWords now k ((List.range (n / 4)).map fun i => o + 4 * i)
    let P3 := if q = 0x60 then P2.rcClear (.cvMatch u) else if q = 0x64 then P2.rcClear (.cvMismatch u) else P2
    P3.setLoaded k bs
  else P1.setLoaded k (List.replicate n 0)

def Package.niLoad (P : Package) (e : Env) (k : BoleIx) (o n : Nat) : Package :=
  if 0xF000 ≤ o ∧ o < 0xF070 then P.cvLoad e.now k o n
  else
    let P1 := P.popCovered e k o n
    let (P2, bs) := P1.readWords e.now k ((List.range ((o + n + 3) / 4 - o / 4)).map fun i => 4 * (o / 4 + i))
    P2.setLoaded k ((bs.drop (o % 4)).take n)

/-- A load from memory: poison faults it (R248). -/
def Package.memLoad (P : Package) (k a n : Nat) : Package :=
  let (bs, bad, P1) := P.memRead k a n
  if bad then P1.fault k fcMemPoison a else P1.setLoaded k bs

def Package.progLoad (P : Package) (e : Env) (k : BoleIx) (a n : Nat) (c : MemCond) : Package :=
  match regionOf k a n with
  | .leaf _ => ((P.contestPipe k (leafBanks a n) c.asks).upset k a n c.upsets).memLoad k a n
  | .heart h o =>
    if P.heartOk (P.tagOf k) h o n then (P.upset k a n c.upsets).memLoad k a n else P.fault k fcAddress a
  | .ni o => if o % 64 + n ≤ 64 then P.niLoad e k o n else P.fault k fcAddress a
  | _ => P.fault k fcAddress a

def execBoleLoad (p : PkgId) (k : BoleIx) (loc size : Nat) (c : MemCond) (s : State) :
    Host.Outcome State Fault Refusal :=
  .next (s.onProg p k fun e P => P.progLoad e k loc size c)

/-- A store of the bole's program. -/
def State.progStore (s : State) (p : Nat) (k : BoleIx) (a : Nat) (bs : List Byte) (c : MemCond) : State :=
  let P := s.pkg p
  match regionOf k a bs.length with
  | .leaf _ => s.updPkg p fun P =>
      ((P.contestPipe k (leafBanks a bs.length) c.asks).upset k a bs.length c.upsets).memWrite k a bs
  | .heart h o =>
    if P.heartOk (P.tagOf k) h o bs.length then s.updPkg p fun P => (P.upset k a bs.length c.upsets).memWrite k a bs
    else s.updPkg p fun P => P.fault k fcAddress a
  | .ni o =>
    if o % 64 + bs.length ≤ 64 then s.regWrite p (.program k) o bs else s.updPkg p fun P => P.fault k fcAddress a
  | _ => s.updPkg p fun P => P.fault k fcAddress a

def execBoleStore (p : PkgId) (k : BoleIx) (loc : Nat) (data : List Byte) (c : MemCond) (s : State) :
    Host.Outcome State Fault Refusal :=
  .next (if (s.pkg p).live && (s.pkg p).up k && ((s.pkg p).bole k).running then s.progStore p k loc data c else s)

end Sys2Proof.Machine
end

