-- ==== Sys2Proof/Machine/TickSync.lean ====
section
/-! DEFINITION. The two-way exchange of time and what a package does without it: rows TICK_SYNC_EXCHANGE and TICK_HOLDOVER_EXPIRE
(R30, R34, R36, R374, R490). -/

namespace Sys2Proof.Machine

/-- The routers of a package that is LOST run no bank; what ran in the window is overrun (R36, R207). -/
def Package.bankless (P : Package) (e : Env) : Package :=
  let P1 := P.closeOccs e
  { P1 with boles := P1.boles.map fun x => (x.1, { x.2 with sched := { x.2.sched with active := 0 } }) }

/-- Raise the leaves of a tick block's change (Table 16.2); LOST stops every bank. -/
def Package.tickLeaves (P : Package) (e : Env) (old : TickBlk) : Package :=
  let P1 := if P.tk.unlocked && !old.unlocked then P.setPkgLeaf pkTickUnlocked else P
  if P.tk.lost && !old.lost then (P1.bankless e).setPkgLeaf pkTickLost else P1

/-- Offset and round trip of a follower from its four stamps: its eft left at t1 and arrived at the source at t2, the
source's left at t3 and arrived at t4 (PRESUMED, log 29). Positive is ahead of the source. -/
def syncMeasure (t1 t2 t3 t4 : Nat) : Int × Nat :=
  let a : Int := t1 - t2
  let b : Int := t4 - t3
  ((a + b) / 2, (b - a).toNat)

/-- What the stamps of an exchange over a link say, once all four are held at its two ends. -/
def State.syncStamps (s : State) (p : Nat) : Option (Int × Nat) :=
  let P := s.pkg p
  match P.syncSource (s.env p) with
  | none => none
  | some l =>
    let (st, px, py, l') := P.farEnd (s.env p) l
    let Q := s.pkg (s.keyOf (s.leadOf (p / 64)) (64 * st + 8 * py + px))
    match P.tk.syncOut.get 0 l, Q.tk.syncIn.get 0 l', Q.tk.syncOut.get 0 l', P.tk.syncIn.get 0 l with
    | t1 + 1, t2 + 1, t3 + 1, t4 + 1 => some (syncMeasure t1 t2 t3 t4)
    | _, _, _, _ => none

/-- Offset and round trip of an exchange: from its stamps, where a link carried it frame by frame; else as the row has them,
for a timing lane and for an exchange whose frames no command has sent (DESIGN CHOICE, log 29). -/
def State.syncMeasured (s : State) (p : Nat) (offset : Int) (rtt : Nat) : Int × Nat := (s.syncStamps p).getD (offset, rtt)

/-- The stamps have served. -/
def TickBlk.syncDone (t : TickBlk) : Option Nat → TickBlk
  | some l => { t with syncOut := t.syncOut.set l 0, syncIn := t.syncIn.set l 0 }
  | none => t

def execTickSyncExchange (p : PkgId) (offset : Int) (rtt : Nat) (s : State) : Host.Outcome State Fault Refusal :=
  if (s.pkg p).live then
    let m := s.syncMeasured p offset rtt
    let s1 := s.bump.updPkg p fun P =>
      let t := (P.tk.rebase s.now).syncDone (P.syncSource (s.env p))
      ({ P with tk := t.exchange m.1 m.2 (Config.syncRate s.freeCtr) (s.isBorder p && P.tk.groveHoldover) } : Package).tickLeaves
        (s.env p) P.tk
    .next ((s1.holdoverEnd p).firstGrant (p / 64))
  else .next s

def execTickHoldoverExpire (p : PkgId) (s : State) : Host.Outcome State Fault Refusal :=
  .next (s.onLive p fun P =>
    if 64 ≤ P.tk.noExch ∧ s.isBorder p = false then
      ({ P with tk := { P.tk with locked := false, unlocked := true, offHeld := true, inLock := 0 } } : Package).tickLeaves (s.env p) P.tk
    else P)

end Sys2Proof.Machine
end

