-- ==== Sys2Proof/Machine/Dispatch.lean ====
section
/-! DEFINITION. One arm per command: a direct call of its meaning. -/

namespace Sys2Proof.Machine

def exec (i : Instr) (s : State) : Host.Outcome State Fault Refusal :=
  match i with
  | .tick p spent => Sys2Proof.Machine.execTick p spent s
  | .clockChangeDone p h => Sys2Proof.Machine.execClockChangeDone p h s
  | .tickSyncExchange p offset rtt => Sys2Proof.Machine.execTickSyncExchange p offset rtt s
  | .tickHoldoverExpire p => Sys2Proof.Machine.execTickHoldoverExpire p s
  | .groveHoldoverStart st => Sys2Proof.Machine.execGroveHoldoverStart st s
  | .groveUnlock st => Sys2Proof.Machine.execGroveUnlock st s
  | .tkPhaseWrite p time => Sys2Proof.Machine.execTkPhaseWrite p time s
  | .tkPeriodNextWrite p v => Sys2Proof.Machine.execTkPeriodNextWrite p v s
  | .tkSwitchTickWrite p v => Sys2Proof.Machine.execTkSwitchTickWrite p v s
  | .periodSwitch p => Sys2Proof.Machine.execPeriodSwitch p s
  | .tokenReport p => Sys2Proof.Machine.execTokenReport p s
  | .tokenReportMissing p => Sys2Proof.Machine.execTokenReportMissing p s
  | .awardArrival p window tokens => Sys2Proof.Machine.execAwardArrival p window tokens s
  | .baseChange p => Sys2Proof.Machine.execBaseChange p s
  | .inletSample st milliC => Sys2Proof.Machine.execInletSample st milliC s
  | .thermalHold st => Sys2Proof.Machine.execThermalHold st s
  | .thermalHoldRelease st => Sys2Proof.Machine.execThermalHoldRelease st s
  | .grandmasterSync ppb mapping => Sys2Proof.Machine.execGrandmasterSync ppb mapping s
  | .boleLoad p k loc size c => Sys2Proof.Machine.execBoleLoad p k loc size c s
  | .boleStore p k loc data c => Sys2Proof.Machine.execBoleStore p k loc data c s
  | .memoryScrubWriteback p m word => Sys2Proof.Machine.execMemoryScrubWriteback p m word s
  | .niDmaWrite p k d => Sys2Proof.Machine.execNiDmaWrite p k d s
  | .niDmaRead p k d => Sys2Proof.Machine.execNiDmaRead p k d s
  | .overflowReadIssue p f => Sys2Proof.Machine.execOverflowReadIssue p f s
  | .overflowReadCompletion p tag status data => Sys2Proof.Machine.execOverflowReadCompletion p tag status data s
  | .rtOvfBudgetWrite p f view units => Sys2Proof.Machine.execRtOvfBudgetWrite p f view units s
  | .rtZeroStart p slot => Sys2Proof.Machine.execRtZeroStart p slot s
  | .rtZeroDone p => Sys2Proof.Machine.execRtZeroDone p s
  | .arbRequest p ix reqs => Sys2Proof.Machine.execArbRequest p ix reqs s
  | .arbGrant p ix => Sys2Proof.Machine.execArbGrant p ix s
  | .arbReserveGrant p ix => Sys2Proof.Machine.execArbReserveGrant p ix s
  | .arbWithdraw p ix req what => Sys2Proof.Machine.execArbWithdraw p ix req what s
  | .arbMask p ix req => Sys2Proof.Machine.execArbMask p ix req s
  | .arbMaskClear p ix req => Sys2Proof.Machine.execArbMaskClear p ix req s
  | .arCtrlWrite p ix v => Sys2Proof.Machine.execArCtrlWrite p ix v s
  | .arClassWrite p ix n v => Sys2Proof.Machine.execArClassWrite p ix n v s
  | .matrixStep p k m contested => Sys2Proof.Machine.execMatrixStep p k m contested s
  | .matrixStepIssue p k => Sys2Proof.Machine.execMatrixStepIssue p k s
  | .stealEpoch p k => Sys2Proof.Machine.execStealEpoch p k s
  | .matrixStepEnd p k => Sys2Proof.Machine.execMatrixStepEnd p k s
  | .storeMask p k c => Sys2Proof.Machine.execStoreMask p k c s
  | .storeMaskTransposed p k c => Sys2Proof.Machine.execStoreMaskTransposed p k c s
  | .storeValue p k c => Sys2Proof.Machine.execStoreValue p k c s
  | .routerForward p r port vn vc read arrive => Sys2Proof.Machine.execRouterForward p r port vn vc read s arrive
  | .onoffSignal p r port vn vc => Sys2Proof.Machine.execOnoffSignal p r port vn vc s
  | .injectionPush p k q => Sys2Proof.Machine.execInjectionPush p k q s
  | .packetInject p k vn => Sys2Proof.Machine.execPacketInject p k vn s
  | .write p k c => Sys2Proof.Machine.execWrite p k s c
  | .writeShort p k => Sys2Proof.Machine.execWriteShort p k s
  | .read p k => Sys2Proof.Machine.execRead p k s
  | .atomic p k => Sys2Proof.Machine.execAtomic p k s
  | .signal p k => Sys2Proof.Machine.execSignal p k s
  | .readData p k => Sys2Proof.Machine.execReadData p k s
  | .ack p k => Sys2Proof.Machine.execAck p k s
  | .nack p k => Sys2Proof.Machine.execNack p k s
  | .atomicResult p k => Sys2Proof.Machine.execAtomicResult p k s
  | .eftPacket p k => Sys2Proof.Machine.execEftPacket p k s
  | .flitExpiry p => Sys2Proof.Machine.execFlitExpiry p s
  | .reassemblyRelease p k => Sys2Proof.Machine.execReassemblyRelease p k s
  | .streamReadahead p k entry => Sys2Proof.Machine.execStreamReadahead p k entry s
  | .schedFlitEject p k entry read arrive => Sys2Proof.Machine.execSchedFlitEject p k entry read arrive s
  | .streamRecord p k stream window => Sys2Proof.Machine.execStreamRecord p k stream window s
  | .injectStreamRecord p k stream => Sys2Proof.Machine.execInjectStreamRecord p k stream s
  | .niSreadyWrite p k stream => Sys2Proof.Machine.execNiSreadyWrite p k stream s
  | .schedArm p k => Sys2Proof.Machine.execSchedArm p k s
  | .schedBankCheck p k => Sys2Proof.Machine.execSchedBankCheck p k s
  | .schedStop p k => Sys2Proof.Machine.execSchedStop p k s
  | .schedModeWrite p k single => Sys2Proof.Machine.execSchedModeWrite p k single s
  | .schedBankSwitch p k => Sys2Proof.Machine.execSchedBankSwitch p k s
  | .niSchedBankWrite p k entry => Sys2Proof.Machine.execNiSchedBankWrite p k entry s
  | .niSchedHdrWrite p k second v => Sys2Proof.Machine.execNiSchedHdrWrite p k second v s
  | .mcastIssue p k m => Sys2Proof.Machine.execMcastIssue p k m s
  | .mcastReplicate p r port vc read branches => Sys2Proof.Machine.execMcastReplicate p r port vc s read branches
  | .mcastDeliver p k => Sys2Proof.Machine.execMcastDeliver p k s
  | .mackArrival p k => Sys2Proof.Machine.execMackArrival p k s
  | .mcastAttemptRetry p k opnum => Sys2Proof.Machine.execMcastAttemptRetry p k opnum s
  | .branchStall p k opnum => Sys2Proof.Machine.execBranchStall p k opnum s
  | .reduceCombine p k port reads => Sys2Proof.Machine.execReduceCombine p k port s reads
  | .combineFlush p k entry => Sys2Proof.Machine.execCombineFlush p k entry s
  | .combineExpire p k entry => Sys2Proof.Machine.execCombineExpire p k entry s
  | .reduceRootLand p k => Sys2Proof.Machine.execReduceRootLand p k s
  | .resendDue p k dstX dstY => Sys2Proof.Machine.execResendDue p k dstX dstY s
  | .requestUnanswered p k dstX dstY => Sys2Proof.Machine.execRequestUnanswered p k dstX dstY s
  | .dedupEvict p k => Sys2Proof.Machine.execDedupEvict p k s
  | .aliveEntryFree p k dstX dstY => Sys2Proof.Machine.execAliveEntryFree p k dstX dstY s
  | .quarantineEnd p k => Sys2Proof.Machine.execQuarantineEnd p k s
  | .cvWrite p u offset width v => Sys2Proof.Machine.execCvWrite p u offset width v s
  | .cvStart p u => Sys2Proof.Machine.execCvStart p u s
  | .cvDin8 p u => Sys2Proof.Machine.execCvDin8 p u s
  | .cvDin16 p u => Sys2Proof.Machine.execCvDin16 p u s
  | .cvDin32 p u => Sys2Proof.Machine.execCvDin32 p u s
  | .cvClose p u => Sys2Proof.Machine.execCvClose p u s
  | .cvParamWrite p u => Sys2Proof.Machine.execCvParamWrite p u s
  | .cvStateWrite p u => Sys2Proof.Machine.execCvStateWrite p u s
  | .cvAliveWrite p u => Sys2Proof.Machine.execCvAliveWrite p u s
  | .cvWatchExpire p u => Sys2Proof.Machine.execCvWatchExpire p u s
  | .shaperFieldWrite p site fld view v => Sys2Proof.Machine.execShaperFieldWrite p site fld view v s
  | .shCtrlEnable p site en => Sys2Proof.Machine.execShCtrlEnable p site en s
  | .watermarkWrite p w v => Sys2Proof.Machine.execWatermarkWrite p w v s
  | .rcRead p r => Sys2Proof.Machine.execRcRead p r s
  | .lanePush p k => Sys2Proof.Machine.execLanePush p k s
  | .twSendWrite p k e => Sys2Proof.Machine.execTwSendWrite p k e s
  | .twigForward p r port vc ev => Sys2Proof.Machine.execTwigForward p r port vc ev s
  | .flagEft p k => Sys2Proof.Machine.execFlagEft p k s
  | .inboxPop p k ix => Sys2Proof.Machine.execInboxPop p k ix s
  | .arrive p k => Sys2Proof.Machine.execArrive p k s
  | .release p k => Sys2Proof.Machine.execRelease p k s
  | .redUp p k => Sys2Proof.Machine.execRedUp p k s
  | .redDown p k => Sys2Proof.Machine.execRedDown p k s
  | .scanUp p k => Sys2Proof.Machine.execScanUp p k s
  | .scanDown p k => Sys2Proof.Machine.execScanDown p k s
  | .loss p tag lossTick isAbort => Sys2Proof.Machine.execLoss p tag lossTick isAbort s
  | .clLaunchWrite p k rec => Sys2Proof.Machine.execClLaunchWrite p k rec s
  | .launchDequeue p k lane => Sys2Proof.Machine.execLaunchDequeue p k lane s
  | .chunkStart p k group => Sys2Proof.Machine.execChunkStart p k group s
  | .collShed p k group => Sys2Proof.Machine.execCollShed p k group s
  | .triggerFire p k => Sys2Proof.Machine.execTriggerFire p k s
  | .triggerActionRun p k => Sys2Proof.Machine.execTriggerActionRun p k s
  | .clCtrAdd p k ctr v => Sys2Proof.Machine.execClCtrAdd p k ctr v s
  | .clCtrReset p k ctr => Sys2Proof.Machine.execClCtrReset p k ctr s
  | .clTrigWrite p k t v => Sys2Proof.Machine.execClTrigWrite p k t v s
  | .clGroupWrite p k g v => Sys2Proof.Machine.execClGroupWrite p k g v s
  | .linkFrameReceive p l fr uncorrectable corr uncorr => Sys2Proof.Machine.execLinkFrameReceive p l fr uncorrectable corr uncorr s
  | .replayRequest p l eseq => Sys2Proof.Machine.execReplayRequest p l eseq s
  | .replayLimit p l => Sys2Proof.Machine.execReplayLimit p l s
  | .hold p l vn ht hid => Sys2Proof.Machine.execHold p l vn ht hid s
  | .holdExpire p l vn => Sys2Proof.Machine.execHoldExpire p l vn s
  | .holdOverrun p l vn => Sys2Proof.Machine.execHoldOverrun p l vn s
  | .fastRetrain p l => Sys2Proof.Machine.execFastRetrain p l s
  | .fullTrain p l => Sys2Proof.Machine.execFullTrain p l s
  | .linkDown p l => Sys2Proof.Machine.execLinkDown p l s
  | .linkDetect p l => Sys2Proof.Machine.execLinkDetect p l s
  | .linkEqualise p l => Sys2Proof.Machine.execLinkEqualise p l s
  | .linkLock p l => Sys2Proof.Machine.execLinkLock p l s
  | .linkIdent p l id => Sys2Proof.Machine.execLinkIdent p l id s
  | .linkMeasure p l rtt probe => Sys2Proof.Machine.execLinkMeasure p l rtt probe s
  | .linkActive p l => Sys2Proof.Machine.execLinkActive p l s
  | .lkRetrain p l => Sys2Proof.Machine.execLkRetrain p l s
  | .lkFulltrain p l => Sys2Proof.Machine.execLkFulltrain p l s
  | .lkDisable p l dis => Sys2Proof.Machine.execLkDisable p l dis s
  | .lkHoldTx p l vn ht => Sys2Proof.Machine.execLkHoldTx p l vn ht s
  | .twigLaneFrame p l fr => Sys2Proof.Machine.execTwigLaneFrame p l fr s
  | .fnNudge p f v => Sys2Proof.Machine.execFnNudge p f v s
  | .doorbellRecord p f r tail ntail => Sys2Proof.Machine.execDoorbellRecord p f r tail ntail s
  | .descriptorFetch p f r ds => Sys2Proof.Machine.execDescriptorFetch p f r ds s
  | .nop p f r n => Sys2Proof.Machine.execNop p f r n s
  | .copyIn p f r n => Sys2Proof.Machine.execCopyIn p f r n s
  | .copyOut p f r n => Sys2Proof.Machine.execCopyOut p f r n s
  | .fill p f r n => Sys2Proof.Machine.execFill p f r n s
  | .schedLoad p f r n => Sys2Proof.Machine.execSchedLoad p f r n s
  | .niWrite p f r n => Sys2Proof.Machine.execNiWrite p f r n s
  | .collGroup p f r n => Sys2Proof.Machine.execCollGroup p f r n s
  | .collLaunch p f r n => Sys2Proof.Machine.execCollLaunch p f r n s
  | .boleRunStart p f r n => Sys2Proof.Machine.execBoleRunStart p f r n s
  | .boleRunStop p f r n => Sys2Proof.Machine.execBoleRunStop p f r n s
  | .wait p f r n => Sys2Proof.Machine.execWait p f r n s
  | .abort p f r n => Sys2Proof.Machine.execAbort p f r n s
  | .descriptorComplete p f r => Sys2Proof.Machine.execDescriptorComplete p f r s
  | .hostReadCompletion p tag status data => Sys2Proof.Machine.execHostReadCompletion p tag status data s
  | .hostReadTimeout p tag => Sys2Proof.Machine.execHostReadTimeout p tag s
  | .fnAbortGlade p f => Sys2Proof.Machine.execFnAbortGlade p f s
  | .rtVfAbort p vfs => Sys2Proof.Machine.execRtVfAbort p vfs s
  | .fnAbortRings p f => Sys2Proof.Machine.execFnAbortRings p f s
  | .ringReset p f r => Sys2Proof.Machine.execRingReset p f r s
  | .ringResetReadDone p f r tail ntail => Sys2Proof.Machine.execRingResetReadDone p f r tail ntail s
  | .ringResetReadTimeout p f r failed => Sys2Proof.Machine.execRingResetReadTimeout p f r s failed
  | .abortCollectivesEnd p f => Sys2Proof.Machine.execAbortCollectivesEnd p f s
  | .abortEscalate p f unconfirmed => Sys2Proof.Machine.execAbortEscalate p f unconfirmed s
  | .ringEnable p f r v => Sys2Proof.Machine.execRingEnable p f r v s
  | .fnSetupLock p f => Sys2Proof.Machine.execFnSetupLock p f s
  | .rtSetupLock p => Sys2Proof.Machine.execRtSetupLock p s
  | .bmeClear p f => Sys2Proof.Machine.execBmeClear p f s
  | .bmeSet p f => Sys2Proof.Machine.execBmeSet p f s
  | .d3hotEntry p f => Sys2Proof.Machine.execD3hotEntry p f s
  | .fnIntAck p f => Sys2Proof.Machine.execFnIntAck p f s
  | .niHostSignal p k => Sys2Proof.Machine.execNiHostSignal p k s
  | .packageColdReset p => Sys2Proof.Machine.execPackageColdReset p s
  | .packageWarmReset p => Sys2Proof.Machine.execPackageWarmReset p s
  | .conventionalReset p => Sys2Proof.Machine.execConventionalReset p s
  | .functionLevelReset p f => Sys2Proof.Machine.execFunctionLevelReset p f s
  | .flrEscalate p f unconfirmed => Sys2Proof.Machine.execFlrEscalate p f unconfirmed s
  | .boleReset p k => Sys2Proof.Machine.execBoleReset p k s
  | .sledPowerOn st sled => Sys2Proof.Machine.execSledPowerOn st sled s
  | .packageReady p badGraft => Sys2Proof.Machine.execPackageReady p badGraft s
  | .packageFailed p => Sys2Proof.Machine.execPackageFailed p s
  | .firstTokenTick p => Sys2Proof.Machine.execFirstTokenTick p s
  | .gladesCreate st gs => Sys2Proof.Machine.execGladesCreate st gs s
  | .gladesRemove st tags => Sys2Proof.Machine.execGladesRemove st tags s
  | .gladeCommit p => Sys2Proof.Machine.execGladeCommit p s
  | .glDiscard p => Sys2Proof.Machine.execGlDiscard p s
  | .rootstockRestart st => Sys2Proof.Machine.execRootstockRestart st s
  | .serviceSled st sled => Sys2Proof.Machine.execServiceSled st sled s
  | .returnSled st sled => Sys2Proof.Machine.execReturnSled st sled s
  | .joinGrove w h => Sys2Proof.Machine.execJoinGrove w h s
  | .redfishPatch st prop v => Sys2Proof.Machine.execRedfishPatch st prop v s
  | .rtFieldDefectWrite p ix v => Sys2Proof.Machine.execRtFieldDefectWrite p ix v s
  | .rtPositionWrite p v => Sys2Proof.Machine.execRtPositionWrite p v s
  | .halfReadLatch p path offset size => Sys2Proof.Machine.execHalfReadLatch p path offset s size
  | .registerWrite p path offset data => Sys2Proof.Machine.execRegisterWrite p path offset data s
  | .linkFrameSend p l => Sys2Proof.Machine.execLinkFrameSend p l s
  | .twigLaneFrameSend p l => Sys2Proof.Machine.execTwigLaneFrameSend p l s
  | .scheduledFlitSend p k entry ev skip => Sys2Proof.Machine.execScheduledFlitSend p k entry ev s skip
  | .pcieLinkUp p width speed => Sys2Proof.Machine.execPcieLinkUp p width speed s

end Sys2Proof.Machine
end

