-- ==== Sys2Proof/Safety.lean ====
section
/-! DEFINITION. What the statements speak of: a command that answers with a next state, memories in the canonical form,
and runs that no fault and no refusal ends. -/

namespace Sys2Proof

namespace Machine

/-- The command answers with a next state that meets post. -/
def Answers (i : Instr) (s : State) (post : State → Prop) : Prop := ∃ t, exec i s = .next t ∧ post t

/-- The canonical form of a memory with its poison bits. -/
def Mem.wf (m : Mem) : Bool := Memory.wf m.bytes

/-- Every memory of a package is in the canonical form. -/
def Package.memWf (P : Package) : Prop :=
  (∀ k, ((P.bole k).leaf.mem).wf = true) ∧ P.west.wf = true ∧ P.east.wf = true

/-- Every memory of the Grove is in the canonical form. -/
def State.memWf (s : State) : Prop := ∀ p, (s.pkg p).memWf

/-- A state from which the next n steps all answer with a next state. -/
def safeFor : Nat → State → Prop
  | 0, _ => True
  | n + 1, s => ∃ t, step s = .next t ∧ safeFor n t

/-- The byte that stands at a leaf address of a bole of a package. -/
def State.leafByte (s : State) (p k a : Nat) : Byte := Memory.read ((s.pkg p).bole k).leaf.mem.bytes a

/-- The byte that stands at a heartwood offset of a half. -/
def State.heartByte (s : State) (p : Nat) (h : Half) (o : Nat) : Byte := Memory.read ((s.pkg p).heart h).bytes o

/-- No byte of any leaf memory or heartwood differs. -/
def State.sameMemory (s t : State) : Prop :=
  (∀ p k a, t.leafByte p k a = s.leafByte p k a) ∧ ∀ p h o, t.heartByte p h o = s.heartByte p h o

/-- The byte that bole k sees at a local address of its memory; 0 outside leaf memory and both halves of the heartwood. -/
def State.localByte (s : State) (p k a : Nat) : Byte :=
  match regionOf k a 1 with
  | .leaf a => s.leafByte p k a
  | .heart h o => s.heartByte p h o
  | _ => 0

/-- From s to t these bytes were stored at a local address of bole k, and no other byte of any memory changed; an address
that is no memory of the bole takes no store. -/
def State.stored (s t : State) (p k a : Nat) (bs : List Byte) : Prop :=
  match regionOf k a bs.length with
  | .leaf a =>
    (∀ i < bs.length, t.leafByte p k (a + i) = bs.getD i 0) ∧
    (∀ p' k' a', p' ≠ p ∨ k' ≠ k ∨ a' < a ∨ a + bs.length ≤ a' → t.leafByte p' k' a' = s.leafByte p' k' a') ∧
    ∀ p' h o, t.heartByte p' h o = s.heartByte p' h o
  | .heart h o =>
    (∀ i < bs.length, t.heartByte p h (o + i) = bs.getD i 0) ∧
    (∀ p' h' o', p' ≠ p ∨ h' ≠ h ∨ o' < o ∨ o + bs.length ≤ o' → t.heartByte p' h' o' = s.heartByte p' h' o') ∧
    ∀ p' k' a', t.leafByte p' k' a' = s.leafByte p' k' a'
  | _ => s.sameMemory t

/-- Bole k is up in a package that runs. -/
def State.boleUp (s : State) (p k : Nat) : Prop := (s.pkg p).live = true ∧ (s.pkg p).up k = true

/-- The oldest whole packet of an opcode in bole k's reassembly buffer is this one, and n is the NI without it. -/
def State.gathered (s : State) (p k : Nat) (op : PktOp) (h : Head) (fs : List Flit) (n : Ni) : Prop :=
  s.boleUp p k ∧ ((s.pkg p).bole k).ni.take op = some (h, fs, n)

/-- A gathered VN0 request that no check of the packet itself turns away (R165, R249, R265, R427). -/
def State.sound (s : State) (p k : Nat) (op : PktOp) (h : Head) (fs : List Flit) (n : Ni) : Prop :=
  s.gathered p k op h fs n ∧ n.aborting = false ∧ n.quarantine = none ∧ malformed op fs = false ∧ pktPoison fs = false ∧
  ecrcGood fs = true

/-- Classes of Table 10.4 that are carried out, an ordered request's gaps apart. -/
def Ni.takes (n : Ni) (h : Head) : Prop :=
  n.classify h = .fresh ∨ n.classify h = .reset ∨ (h.ord = false ∧ (n.classify h = .late ∨ n.classify h = .ahead))

/-- The row that takes a request of an opcode, a WRITE meeting m in memory. -/
def requestCmd (p : PkgId) (k : BoleIx) (m : MemCond) : PktOp → Option Instr
  | .write => some (.write p k m)
  | .writeShort => some (.writeShort p k)
  | .read => some (.read p k)
  | .atomic => some (.atomic p k)
  | .signal => some (.signal p k)
  | _ => none

/-- The row that takes an answer of an opcode. -/
def answerCmd (p : PkgId) (k : BoleIx) : PktOp → Option Instr
  | .readData => some (.readData p k)
  | .ack => some (.ack p k)
  | .nack => some (.nack p k)
  | .atomicResult => some (.atomicResult p k)
  | _ => none

/-- From s to t, bole k queued this answer to a packet on virtual network 1, as the queue's last entry. -/
def State.answered (s t : State) (p k : Nat) (h : Head) (op : PktOp) (loc n : Nat) (payload : List Byte) (poisoned : List Bool) :
    Prop :=
  ((t.pkg p).bole k).ni.q.get [] 1 = ((s.pkg p).bole k).ni.q.get [] 1 ++
    [{ what := .pkt (mkPacket { (s.pkg p).mkHead (s.env p) k op h.srcX h.srcY loc false h.alive with tag := h.tag } n payload
         poisoned), pushedAt := s.now }]

/-- A counter of bole k's NI rose by n, saturating at 2^32 - 1. -/
def State.counted (s t : State) (p k j n : Nat) : Prop :=
  ((t.pkg p).bole k).ni.cnt.get 0 j = min 4294967295 (((s.pkg p).bole k).ni.cnt.get 0 j + n)

/-- A link in ACTIVE of a package that runs. -/
def State.linkUp (s : State) (p l : Nat) : Prop := (s.pkg p).live = true ∧ ((s.pkg p).link l).active = true

/-- From s to t only link l of package p, and nothing else of the Grove, may have changed. -/
def State.onlyLink (s t : State) (p l : Nat) : Prop := t = s.updPkg p fun P => P.updLink l fun _ => (t.pkg p).link l

/-- A function of a package that runs, in no function reset. -/
def State.fnUp (s : State) (p f : Nat) : Prop := (s.pkg p).live = true ∧ ((s.pkg p).fn f).inReset = false

/-- Descriptor d is the only one in execution on a running ring, nothing waits behind it, its host reads have ended, and no
status has been given to it. -/
def State.soleDesc (s : State) (p f r : Nat) (d : Desc) : Prop :=
  s.fnUp p f ∧ ((s.pkg p).ring f r).st = .running ∧ ((s.pkg p).ring f r).exec = [d] ∧ ((s.pkg p).ring f r).waiting = [] ∧
  d.left = 0 ∧ d.status = 0

/-- From s to t the ring's only descriptor ended with a status and a detail, and the ring's books kept their numbers. -/
def State.descEnds (s t : State) (p f r : Nat) (d : Desc) (status detail : Nat) : Prop :=
  ((t.pkg p).ring f r).exec = [] ∧
  ((t.pkg p).ring f r).ended = ((s.pkg p).ring f r).ended ++ [{ d with status := status, detail := detail, got := [] }] ∧
  ((t.pkg p).ring f r).head = ((s.pkg p).ring f r).head ∧ ((t.pkg p).ring f r).tailSeen = ((s.pkg p).ring f r).tailSeen

end Machine

/-- The package that a command belongs to, none for a row of the Rootstocks and for the few rows that a replant may follow
from. -/
def Instr.home : Instr → Option PkgId
  | .tick _ _ => none
  | .clockChangeDone p _ => some p
  | .tickSyncExchange _ _ _ => none
  | .tickHoldoverExpire p => some p
  | .groveHoldoverStart _ => none
  | .groveUnlock _ => none
  | .tkPhaseWrite p _ => some p
  | .tkPeriodNextWrite p _ => some p
  | .tkSwitchTickWrite p _ => some p
  | .periodSwitch p => some p
  | .tokenReport p => some p
  | .tokenReportMissing p => some p
  | .awardArrival p _ _ => some p
  | .baseChange p => some p
  | .inletSample _ _ => none
  | .thermalHold _ => none
  | .thermalHoldRelease _ => none
  | .grandmasterSync _ _ => none
  | .boleLoad p _ _ _ _ => some p
  | .boleStore p _ _ _ _ => some p
  | .memoryScrubWriteback p _ _ => some p
  | .niDmaWrite p _ _ => some p
  | .niDmaRead p _ _ => some p
  | .overflowReadIssue p _ => some p
  | .overflowReadCompletion p _ _ _ => some p
  | .rtOvfBudgetWrite p _ _ _ => some p
  | .rtZeroStart p _ => some p
  | .rtZeroDone _ => none
  | .arbRequest p _ _ => some p
  | .arbGrant p _ => some p
  | .arbReserveGrant p _ => some p
  | .arbWithdraw p _ _ _ => some p
  | .arbMask p _ _ => some p
  | .arbMaskClear p _ _ => some p
  | .arCtrlWrite p _ _ => some p
  | .arClassWrite p _ _ _ => some p
  | .matrixStep p _ _ _ => some p
  | .matrixStepIssue p _ => some p
  | .stealEpoch p _ => some p
  | .matrixStepEnd p _ => some p
  | .storeMask p _ _ => some p
  | .storeMaskTransposed p _ _ => some p
  | .storeValue p _ _ => some p
  | .routerForward p _ _ _ _ _ _ => some p
  | .onoffSignal p _ _ _ _ => some p
  | .injectionPush p _ _ => some p
  | .packetInject p _ _ => some p
  | .write p _ _ => some p
  | .writeShort p _ => some p
  | .read p _ => some p
  | .atomic p _ => some p
  | .signal p _ => some p
  | .readData p _ => some p
  | .ack p _ => some p
  | .nack p _ => some p
  | .atomicResult p _ => some p
  | .eftPacket p _ => some p
  | .flitExpiry p => some p
  | .reassemblyRelease p _ => some p
  | .streamReadahead p _ _ => some p
  | .schedFlitEject p _ _ _ _ => some p
  | .streamRecord p _ _ _ => some p
  | .injectStreamRecord p _ _ => some p
  | .niSreadyWrite p _ _ => some p
  | .schedArm p _ => some p
  | .schedBankCheck p _ => some p
  | .schedStop p _ => some p
  | .schedModeWrite p _ _ => some p
  | .schedBankSwitch p _ => some p
  | .niSchedBankWrite p _ _ => some p
  | .niSchedHdrWrite p _ _ _ => some p
  | .mcastIssue p _ _ => some p
  | .mcastReplicate p _ _ _ _ _ => some p
  | .mcastDeliver p _ => some p
  | .mackArrival p _ => some p
  | .mcastAttemptRetry p _ _ => some p
  | .branchStall p _ _ => some p
  | .reduceCombine p _ _ _ => some p
  | .combineFlush p _ _ => some p
  | .combineExpire p _ _ => some p
  | .reduceRootLand p _ => some p
  | .resendDue p _ _ _ => some p
  | .requestUnanswered p _ _ _ => some p
  | .dedupEvict p _ => some p
  | .aliveEntryFree p _ _ _ => some p
  | .quarantineEnd p _ => some p
  | .cvWrite p _ _ _ _ => some p
  | .cvStart p _ => some p
  | .cvDin8 p _ => some p
  | .cvDin16 p _ => some p
  | .cvDin32 p _ => some p
  | .cvClose p _ => some p
  | .cvParamWrite p _ => some p
  | .cvStateWrite p _ => some p
  | .cvAliveWrite p _ => some p
  | .cvWatchExpire p _ => some p
  | .shaperFieldWrite p _ _ _ _ => some p
  | .shCtrlEnable p _ _ => some p
  | .watermarkWrite p _ _ => some p
  | .rcRead p _ => some p
  | .lanePush p _ => some p
  | .twSendWrite p _ _ => some p
  | .twigForward p _ _ _ _ => some p
  | .flagEft p _ => some p
  | .inboxPop p _ _ => some p
  | .arrive p _ => some p
  | .release p _ => some p
  | .redUp p _ => some p
  | .redDown p _ => some p
  | .scanUp p _ => some p
  | .scanDown p _ => some p
  | .loss p _ _ _ => some p
  | .clLaunchWrite p _ _ => some p
  | .launchDequeue p _ _ => some p
  | .chunkStart p _ _ => some p
  | .collShed p _ _ => some p
  | .triggerFire p _ => some p
  | .triggerActionRun p _ => some p
  | .clCtrAdd p _ _ _ => some p
  | .clCtrReset p _ _ => some p
  | .clTrigWrite p _ _ _ => some p
  | .clGroupWrite p _ _ _ => some p
  | .linkFrameReceive p _ _ _ _ _ => some p
  | .replayRequest p _ _ => some p
  | .replayLimit p _ => some p
  | .hold p _ _ _ _ => some p
  | .holdExpire p _ _ => some p
  | .holdOverrun p _ _ => some p
  | .fastRetrain p _ => some p
  | .fullTrain p _ => some p
  | .linkDown p _ => some p
  | .linkDetect p _ => some p
  | .linkEqualise p _ => some p
  | .linkLock p _ => some p
  | .linkIdent p _ _ => some p
  | .linkMeasure p _ _ _ => some p
  | .linkActive p _ => some p
  | .lkRetrain p _ => some p
  | .lkFulltrain p _ => some p
  | .lkDisable p _ _ => some p
  | .lkHoldTx p _ _ _ => some p
  | .twigLaneFrame p _ _ => some p
  | .fnNudge p _ _ => some p
  | .doorbellRecord p _ _ _ _ => some p
  | .descriptorFetch p _ _ _ => some p
  | .nop p _ _ _ => some p
  | .copyIn p _ _ _ => some p
  | .copyOut p _ _ _ => some p
  | .fill p _ _ _ => some p
  | .schedLoad p _ _ _ => some p
  | .niWrite p _ _ _ => some p
  | .collGroup p _ _ _ => some p
  | .collLaunch p _ _ _ => some p
  | .boleRunStart p _ _ _ => some p
  | .boleRunStop p _ _ _ => some p
  | .wait p _ _ _ => some p
  | .abort p _ _ _ => some p
  | .descriptorComplete p _ _ => some p
  | .hostReadCompletion p _ _ _ => some p
  | .hostReadTimeout p _ => some p
  | .fnAbortGlade p _ => some p
  | .rtVfAbort p _ => some p
  | .fnAbortRings p _ => some p
  | .ringReset p _ _ => some p
  | .ringResetReadDone p _ _ _ _ => some p
  | .ringResetReadTimeout p _ _ _ => some p
  | .abortCollectivesEnd p _ => some p
  | .abortEscalate p _ _ => some p
  | .ringEnable p _ _ _ => some p
  | .fnSetupLock p _ => some p
  | .rtSetupLock p => some p
  | .bmeClear p _ => some p
  | .bmeSet p _ => some p
  | .d3hotEntry p _ => some p
  | .fnIntAck p _ => some p
  | .niHostSignal p _ => some p
  | .packageColdReset p => some p
  | .packageWarmReset p => some p
  | .conventionalReset p => some p
  | .functionLevelReset p _ => some p
  | .flrEscalate p _ _ => some p
  | .boleReset p _ => some p
  | .sledPowerOn _ _ => none
  | .packageReady p _ => some p
  | .packageFailed p => some p
  | .firstTokenTick p => some p
  | .gladesCreate _ _ => none
  | .gladesRemove _ _ => none
  | .gladeCommit _ => none
  | .glDiscard p => some p
  | .rootstockRestart _ => none
  | .serviceSled _ _ => none
  | .returnSled _ _ => none
  | .joinGrove _ _ => none
  | .redfishPatch _ _ _ => none
  | .rtFieldDefectWrite p _ _ => some p
  | .rtPositionWrite p _ => some p
  | .halfReadLatch p _ _ _ => some p
  | .registerWrite p _ _ _ => some p
  | .linkFrameSend p _ => some p
  | .twigLaneFrameSend p _ => some p
  | .scheduledFlitSend p _ _ _ _ => some p
  | .pcieLinkUp p _ _ => some p

/-- Rows that read or compute and have no byte of memory to store. -/
def Instr.storesNothing : Instr → Bool
  | .linkFrameReceive _ _ _ _ _ _ | .replayRequest _ _ _ | .replayLimit _ _ | .hold _ _ _ _ _ | .holdExpire _ _ _
  | .holdOverrun _ _ _ | .fastRetrain _ _ | .fullTrain _ _ | .linkDown _ _ | .linkDetect _ _ | .linkEqualise _ _
  | .linkLock _ _ | .linkIdent _ _ _ | .linkMeasure _ _ _ _ | .linkActive _ _ | .lkRetrain _ _ | .lkFulltrain _ _
  | .lkDisable _ _ _ | .lkHoldTx _ _ _ _ | .twigLaneFrame _ _ _ | .linkFrameSend _ _ | .twigLaneFrameSend _ _
  | .arbRequest _ _ _ | .arbGrant _ _ | .arbReserveGrant _ _ | .arbWithdraw _ _ _ _ | .arbMask _ _ _
  | .arbMaskClear _ _ _ | .arCtrlWrite _ _ _ | .arClassWrite _ _ _ _ | .clockChangeDone _ _ | .tickHoldoverExpire _
  | .groveHoldoverStart _ | .groveUnlock _ | .tkPhaseWrite _ _ | .tkPeriodNextWrite _ _ | .tkSwitchTickWrite _ _
  | .periodSwitch _ | .tokenReport _ | .tokenReportMissing _ | .awardArrival _ _ _ | .baseChange _ | .inletSample _ _
  | .thermalHoldRelease _ | .grandmasterSync _ _ | .tickSyncExchange _ _ _ | .cvWrite _ _ _ _ _ | .cvStart _ _
  | .cvDin8 _ _ | .cvDin16 _ _ | .cvDin32 _ _ | .cvClose _ _ | .cvParamWrite _ _ | .cvStateWrite _ _ | .cvAliveWrite _ _
  | .cvWatchExpire _ _ | .shaperFieldWrite _ _ _ _ _ | .shCtrlEnable _ _ _ | .watermarkWrite _ _ _ | .rcRead _ _
  | .niSreadyWrite _ _ _ | .schedArm _ _ | .schedStop _ _ | .schedModeWrite _ _ _ | .niSchedBankWrite _ _ _
  | .niSchedHdrWrite _ _ _ _ | .clCtrAdd _ _ _ _ | .clCtrReset _ _ _ | .clTrigWrite _ _ _ _ | .clGroupWrite _ _ _ _
  | .fnNudge _ _ _ | .wait _ _ _ _ | .nop _ _ _ _ | .fnSetupLock _ _ | .rtSetupLock _ | .bmeSet _ _ | .fnIntAck _ _
  | .niHostSignal _ _ | .halfReadLatch _ _ _ _ | .pcieLinkUp _ _ _ | .rtPositionWrite _ _ | .glDiscard _
  | .firstTokenTick _ | .redfishPatch _ _ _ | .rtOvfBudgetWrite _ _ _ _ | .boleRunStart _ _ _ _ | .boleRunStop _ _ _ _
  | .schedLoad _ _ _ _ | .collGroup _ _ _ _ | .copyOut _ _ _ _ | .descriptorComplete _ _ _ | .doorbellRecord _ _ _ _ _
  | .descriptorFetch _ _ _ _ => true
  | _ => false

end Sys2Proof
end

