-- ==== Sys2Proof/Certificates/Slice0/Obligations.lean ====
section
/-! DEFINITION. The statements for the provers, chapter by chapter of the spec. Answers c s post (Safety.lean) says that the
command c answers from the state s with a next state of which post holds; so each of them says also that the commands it
names complete there. Where a clause rests on a choice of the model, its text names the log entry. -/

open Sys2Proof Sys2Proof.Machine

/-! ### The machine as a whole -/

/-- DERIVED (rests on the block's queue of commands, log 4): a step takes the command at the front of the queue and carries it
out on the state with the queue's rest; on an empty queue one CKM cycle passes, and the bole resets whose time is over end. -/
def Obligations.StepTakesTheFrontCommand : Prop :=
  (∀ (c : Instr) (cs : List Instr) (s : State), s.pending = c :: cs → step s = exec c { s with pending := cs }) ∧
  (∀ s : State, s.pending = [] → step s = .next ({ s with now := s.now + 1 } : State).wake)

/-- DERIVED (rests on spec/opcode_table.json; log 3, logs 4 and 5): every command of the table answers with a next state, from
every state. A step only takes the front command off the queue, never runs State.now back, and never gives back a free
value: no command waits, or ends, because of another one. -/
def Obligations.EveryCommandAnswersAndKeepsTheQueue : Prop :=
  (∀ (i : Instr) (s : State), Answers i s fun _ => True) ∧
  (∀ s t : State, step s = .next t → t.pending = s.pending.tail ∧ s.now ≤ t.now ∧ s.freeCtr ≤ t.freeCtr)

/-- DERIVED (rests on R5, R247, R68, Table 16.8; log 2): every step, whatever its command, keeps every leaf memory and both
halves of every package's heartwood in the canonical form: addresses rising and no byte listed that reads as an unlisted
one. -/
def Obligations.EveryStepKeepsMemoryCanonical : Prop :=
  ∀ s t : State, s.memWf → step s = .next t → t.memWf

/-- DERIVED (rests on chapters 16 and 18): the machine right after reset. Nothing waits, no package is powered, memory reads 0
and is in the canonical form; a package then has the reset values that the spec gives: TK_PERIOD 20, RT_OVF_CEIL 3,750
(R73), no budget, every function NOGLADE and FRESH with ARM 1, every ring DISABLED, every shaper off with full rates and
depth 4,095 and spacing 64, arbiters with N = 8, empty and with 16 contexts, every link untrained, no scheduled bank active,
and the check-value units set up for CRC-32. -/
def Obligations.ResetState : Prop :=
  State.reset.pending = [] ∧ State.reset.memWf ∧
  (∀ p k a, State.reset.leafByte p k a = 0) ∧ (∀ p h o, State.reset.heartByte p h o = 0) ∧
  ∀ p : Nat, (State.reset.pkg p).powered = false ∧ (State.reset.pkg p).tk.period = 20 ∧
    (State.reset.pkg p).rt.ovfCeil = 3750 ∧ (State.reset.pkg p).comm.budget = [] ∧ (State.reset.pkg p).tok.bringup = true ∧
    (∀ f, ((State.reset.pkg p).fn f).noGlade = true ∧ ((State.reset.pkg p).fn f).fresh = true ∧
      ((State.reset.pkg p).fn f).arm = true ∧ ((State.reset.pkg p).fn f).cv.cfg = 0x31F ∧
      ((State.reset.pkg p).fn f).cv.poly = 0x04C11DB7 ∧
      ∀ r, ((State.reset.pkg p).ring f r).st = .disabled ∧ ((State.reset.pkg p).ring f r).log2size = 6 ∧
        ((State.reset.pkg p).ring f r).poll = true) ∧
    (∀ k, ((State.reset.pkg p).bole k).running = false ∧ ((State.reset.pkg p).bole k).sched.active = 0 ∧
      ((State.reset.pkg p).bole k).shaper.en = false ∧ ((State.reset.pkg p).bole k).shaper.laneW = 0x11111111 ∧
      ((State.reset.pkg p).bole k).shaper.svc0.rates = ⟨65536, 65536, 4095, 4095⟩ ∧
      ((State.reset.pkg p).bole k).shaper.svc0.spacing = 64) ∧
    (∀ i, ((State.reset.pkg p).arb i).n = 8 ∧ ((State.reset.pkg p).arb i).q = [] ∧ ((State.reset.pkg p).arb i).ctxFree = 16)

/-! ### What every command leaves -/

/-- DERIVED (rests on spec/opcode_table.json, chapters 01 and 03; the model's division of the Grove into packages):
isolation and frames. A command that belongs to one package (Instr.home) changes no register, no FIFO and no byte of another
package of the Grove, but that bole resets end there whose time is over where the command lets a CKM cycle pass (log 4). A
command that has no byte to store (Instr.storesNothing: the links' frames and training, the arbiters, the clocks and power
messages, the check-value units, the shapers, arming, WAIT, NOP, BOLE_RUN and the rest it lists) changes no byte of any
memory. -/
def Obligations.CommandsReachNoFurther : Prop :=
  ∀ (c : Instr) (s t : State), exec c s = .next t →
    (∀ (p : PkgId) (q : Nat), c.home = some p → q ≠ p →
      t.pkg q = s.pkg q ∨ (s.now < t.now ∧ t.pkg q = (s.pkg q).wake t.now)) ∧ (c.storesNothing = true → s.sameMemory t)

/-! ### Chapter 02: tick and power -/

/-- DERIVED (rests on R28, R40, R42, R45, R46): a tick of a package in service, no replant being open. Time comes to the
cycle in which TK_TIME has reached the next tick time, one period after the last one's; TK_TIME itself runs on unstepped; with
no rate correction that is 1,500 P cycles after a tick at which the two clocks' edges meet. TK_TICK_NUM advances by one, the
token books close on the energy measured and the next step is chosen, and every NI's counters of the window stand in the
snapshot, stamped with the new tick number. -/
def Obligations.TickClosesTheWindow : Prop :=
  ∀ (p : PkgId) (spent : Nat) (s : State), (s.pkg p).live = true → (s.pkg p).ready = true →
    (s.stand (s.leadOf (p / 64))).replant = none → (s.stand (s.leadOf (p / 64))).waiting = [] →
    Answers (.tick p spent) s fun t =>
      t.now = max s.now (s.pkg p).tk.dueAt ∧ (t.pkg p).tk.winStart = (s.pkg p).tk.dueAt ∧ (t.pkg p).tk.winCyc = 0 ∧
      (t.pkg p).tk.tickNum = ((s.pkg p).tk.tickNum + 1) % 2 ^ 48 ∧
      (t.pkg p).tk.tickTime = (s.pkg p).tk.tickTime + 16000 * (s.pkg p).tk.period ∧
      (∀ n, (t.pkg p).tk.count n = (s.pkg p).tk.count n) ∧ (t.pkg p).tk.tickTime ≤ (t.pkg p).tk.count t.now ∧
      ((s.pkg p).tk.rate = 0 → (s.pkg p).tk.timeFrac = 0 → (s.pkg p).tk.timeBase = (s.pkg p).tk.tickTime →
        (s.pkg p).tk.timeAt = (s.pkg p).tk.winStart → (s.pkg p).tk.winStart % 15 = 0 →
        (s.pkg p).tk.dueAt = (s.pkg p).tk.winStart + 1500 * (s.pkg p).tk.period) ∧
      (t.pkg p).tok = ((s.pkg p).tok.close (s.pkg p).tk.tickNum (s.pkg p).tk.period spent).1.select (s.pkg p).tk.period ∧
      ∀ k < 64, ((t.pkg p).bole k).ni.smpTick = (t.pkg p).tk.tickNum

/-- STATED (R45): at a window's opening the available tokens are base plus award plus bank. Outside bring-up (R436) and with
no overspend behind it (R46), where the step is 0, PT_STEP becomes the largest k from 0 to PT_MAX_STEP whose full-activity
cost does not exceed them; nothing else decides, and a half's clock is set to change exactly when it differs from the step.
The step of the window that opens at a TICK is the one so chosen. -/
def Obligations.TokensChooseTheLargestStep : Prop :=
  (∀ (t : TokenBlk) (P : Nat), t.available = t.base + t.award + t.bank ∧
    (t.bringup = true ∨ t.floorWin = true → (t.select P).step = 0) ∧
    (t.bringup = false → t.floorWin = false →
      (t.select P).step ≤ t.maxStep ∧
      ((t.select P).step = 0 ∨ stepCost (t.select P).step P ≤ t.available) ∧
      (∀ k, (t.select P).step < k → k ≤ t.maxStep → t.available < stepCost k P) ∧
      ∀ u : TokenBlk, u.bringup = false → u.floorWin = false → u.available = t.available → u.maxStep = t.maxStep →
        (u.select P).step = (t.select P).step) ∧
    (∀ k, (t.select P).ckwNext = some k → k = (t.select P).step) ∧ ((t.select P).ckwNext = none → t.ckw = (t.select P).step) ∧
    (∀ k, (t.select P).ckeNext = some k → k = (t.select P).step) ∧ ((t.select P).ckeNext = none → t.cke = (t.select P).step)) ∧
  (∀ (p : PkgId) (spent : Nat) (s : State), (s.pkg p).live = true → (s.pkg p).ready = true →
    (s.stand (s.leadOf (p / 64))).replant = none → (s.stand (s.leadOf (p / 64))).waiting = [] →
    Answers (.tick p spent) s fun t => (t.pkg p).tok =
      ((s.pkg p).tok.close (s.pkg p).tk.tickNum (s.pkg p).tk.period spent).1.select (s.pkg p).tk.period)

/-- DERIVED (rests on R46, R47, R51; what spent means in an overspent window, and where a late award stands, are the model's
reading, log 11; the cap of a tick that changes it, log 44): the books that a window closes with. Base, award and the bank
brought in equal spent, the bank carried out and returned; without overspend the bank is the smaller of the cap and what is
left; with it the bank is 0, the excess goes to PT_OVERSPEND and the next window runs at step 0. -/
def Obligations.TokenBooksBalance : Prop :=
  ∀ (t : TokenBlk) (window P spent : Nat), t.bringup = false →
    ∃ q, (t.close window P spent).1.report = some q ∧ q.window = window ∧ q.base = t.base ∧ q.bankIn = t.bank ∧
      q.base + q.award + q.bankIn = q.spent + q.bankOut + q.returned ∧
      (t.close window P spent).1.bank = q.bankOut ∧
      (spent ≤ t.available → q.spent = spent ∧ q.bankOut = min (t.capAt (window + 1)) (t.available - spent) ∧
        (t.close window P spent).1.overspend = t.overspend ∧ (t.close window P spent).1.floorWin = false) ∧
      (t.available < spent → q.bankOut = 0 ∧ q.returned = t.lateAward ∧
        (t.close window P spent).1.overspend = min 4294967295 (t.overspend + (spent - t.available)) ∧
        ∀ P', ((t.close window P spent).1.select P').step = 0)

/-- DERIVED (rests on R14, R49 to R53, R55, R56, R443): the two rounds in which the Rootstock divides its pool give every
requester at most its request, and together never more than the pool. The power economy's messages. A half's clock change
ends at its new step; the award issued for a later window waits for it, and one that comes late is kept to be returned; a
written base comes into force at its tick; a report reaches the Rootstock's books and leaves the package, one that is
missing 4 us after the tick is booked as spent in full, with nothing left over, and an alarm; an inlet sample sets the
figures for the next awards; a minute above 37 degrees powers the Stand's packages down, and the operator's release ends the
hold. -/
def Obligations.AwardsAndPowerMessages : Prop :=
  (∀ (pool : Nat) (reqs : List (Nat × Nat)),
      (∀ a ∈ poolDivide pool reqs, ∃ q, (a.1, q) ∈ reqs ∧ a.2 ≤ q) ∧ ((poolDivide pool reqs).map fun a => a.2).sum ≤ pool) ∧
  ((∀ (p : PkgId) (s : State) (k : Nat), (s.pkg p).live = true → (s.pkg p).tok.ckwNext = some k →
      Answers (.clockChangeDone p .west) s fun t =>
        t = s.setPkg p { s.pkg p with tok := { (s.pkg p).tok with ckw := k, ckwNext := none } }) ∧
    (∀ (p : PkgId) (s : State) (k : Nat), (s.pkg p).live = true → (s.pkg p).tok.ckeNext = some k →
      Answers (.clockChangeDone p .east) s fun t =>
        t = s.setPkg p { s.pkg p with tok := { (s.pkg p).tok with cke := k, ckeNext := none } }) ∧
    (∀ (p : PkgId) (window tokens : Nat) (a : Award) (s : State), (s.pkg p).live = true →
      (s.stand (p / 64)).issued.find? (Award.due (p % 64) window tokens) = some a →
      Answers (.awardArrival p window tokens) s fun t => (t.pkg p).tok.award = (s.pkg p).tok.award ∧
        ((s.pkg p).tk.tickNum < window → (t.pkg p).tok.awards.get 0 window = tokens ∧
          (t.pkg p).tok.lateAward = (s.pkg p).tok.lateAward) ∧
        (window ≤ (s.pkg p).tk.tickNum → (t.pkg p).tok.awards = (s.pkg p).tok.awards ∧
          (t.pkg p).tok.lateAward = (s.pkg p).tok.lateAward + tokens) ∧
        (t.stand (p / 64)).issued.find? (Award.due (p % 64) window tokens) = none) ∧
    (∀ (p : PkgId) (window tokens : Nat) (s : State),
      (s.stand (p / 64)).issued.find? (Award.due (p % 64) window tokens) = none →
      Answers (.awardArrival p window tokens) s fun t => t = s) ∧
    (∀ (p : PkgId) (s : State), (s.pkg p).live = true → (s.pkg p).tok.nextTick ≠ 0 →
      (s.pkg p).tk.tickNum = (s.pkg p).tok.nextTick →
      Answers (.baseChange p) s fun t => (t.pkg p).tok.base = (s.pkg p).tok.baseNext ∧
        (t.pkg p).tok.cap = (s.pkg p).tok.capNext ∧ (t.pkg p).tok.bank = (s.pkg p).tok.bank ∧
        (t.pkg p).tok.step = (t.pkg p).tok.chosen (s.pkg p).tk.period ∧ (t.pkg p).tk = (s.pkg p).tk) ∧
    (∀ (p : PkgId) (s : State), (s.pkg p).tok.nextTick = 0 ∨ (s.pkg p).tk.tickNum ≠ (s.pkg p).tok.nextTick →
      Answers (.baseChange p) s fun t => t.pkg p = s.pkg p) ∧
    (∀ (p : PkgId) (s : State) (q : Report), (s.pkg p).live = true → (s.pkg p).tok.report = some q →
      Answers (.tokenReport p) s fun t => (t.pkg p).tok.report = none ∧ (t.stand (p / 64)).banks.get 0 (p % 64) = q.bankOut ∧
        ((t.stand (p / 64)).closed = q.window + 1 ∨
          { pkg := p % 64, window := q.window, request := q.request, spent := q.spent, bank := q.bankOut,
            returned := q.returned, missing := false } ∈ (t.stand (p / 64)).reports)) ∧
    (∀ (p : PkgId) (s : State), (s.pkg p).tok.report = none → Answers (.tokenReport p) s fun t => t = s) ∧
    (∀ (p : PkgId) (s : State), let r := s.stand (p / 64)
      let tick := s.standTick (p / 64)
      (tick ≠ 0 → s.standTickAt (p / 64) + 6000 ≤ s.now → r.granted.get 0 (p % 64) ≠ 0 → r.granted.get 0 (p % 64) ≤ tick - 1 →
        r.closed ≠ tick → r.reports.any (fun q => q.pkg == p % 64 && q.window == tick - 1) = false →
        Answers (.tokenReportMissing p) s fun t => (t.pkg p).tok.report = none ∧
          Alarm.tokenReportMissing (p % 64) (tick - 1) ∈ (t.stand (p / 64)).alarms ∧
          (t.stand (p / 64)).banks.get 0 (p % 64) = 0 ∧
          ((t.stand (p / 64)).closed = tick ∨
            { pkg := p % 64, window := tick - 1, request := 0, spent := r.base + r.awarded (p % 64) (tick - 1) +
                r.banks.get 0 (p % 64), bank := 0, returned := 0, missing := true } ∈ (t.stand (p / 64)).reports)) ∧
      (s.now < s.standTickAt (p / 64) + 6000 ∨ r.granted.get 0 (p % 64) = 0 ∨ r.closed = tick →
        Answers (.tokenReportMissing p) s fun t => t = s)) ∧
    (∀ (st : StandIx) (milliC : Int) (s : State),
      Answers (.inletSample st milliC) s fun t => (t.stand st).inlet = (milliC.toNat + 999) / 1000 % 256 ∧
        ((t.stand st).inletOver = true ↔ 35000 < milliC) ∧ (35000 < milliC → (t.stand st).pool = 0) ∧
        (milliC ≤ 37000 → (t.stand st).above37 = 0)) ∧
    (∀ (st : StandIx) (s : State), 60 ≤ (s.stand st).above37 → (s.stand st).thermalHold = false →
      Answers (.thermalHold st) s fun t => (t.stand st).thermalHold = true ∧ (t.stand st).sledOn = 0 ∧
        ∀ n < 64, (t.pkg (64 * st + n)).powered = false ∧ (t.pkg (64 * st + n)).thermal = true) ∧
    (∀ (st : StandIx) (s : State), (s.stand st).thermalHold = true → (s.stand st).inlet ≤ 35 →
      Answers (.thermalHoldRelease st) s fun t => (t.stand st).thermalHold = false ∧
        ∀ n < 64, (t.pkg (64 * st + n)).thermal = false))

/-- DERIVED (rests on R29, R39, R57, R470, R30, R34, R35, R36, R37, R374, R490): the writes of the tick block. Before lock
TK_PHASE sets TK_TIME and ends LOST, and TK_TICK_NUM counts whole periods from a tick of the period in force (the model's
choice, log 29); after it nothing changes. TK_PERIOD_NEXT takes 8 to 64 and nothing else, and is refused with an alarm where
the budget falls short; TK_SWITCH_TICK takes 0 or a tick at least two ahead, and refuses any other with SWITCH_REFUSED. At
the switch tick the next period comes into force, RT_OVF_CEIL is rescaled (R74), a bank compiled for another period stops,
the bank of tokens stays below the new cap and TK_SWITCH_TICK goes back to 0. Synchronisation. A valid exchange gives
TK_OFFSET and TK_RTT, from its stamps where a link carried it (log 29), steps no time and ends the holdover; it takes a
package that lies more than P/4 out to LOST, LOCKS one after 16 exchanges within 1 ns, and unlocks one after 4 exchanges
outside 2 ns, which then slews by at most 50 parts per million. 64 periods without a valid exchange unlock a package that is
no border package. A Rootstock whose border package has lost its source tells every Stand behind it, and after 64 periods
unlocks them; the grandmaster corrects the lead's rate by at most 10 parts per million. -/
def Obligations.TickBlockAndSynchronisation : Prop :=
  ((∀ (p : PkgId) (time : BitVec 64) (s : State), (s.pkg p).live = true → (s.pkg p).tk.everLocked = false →
      Answers (.tkPhaseWrite p time) s fun t => (t.pkg p).tk.time s.now = time.toNat ∧ (t.pkg p).tk.lost = false ∧
        ((s.pkg p).tk.eraTime ≤ time.toNat → (t.pkg p).tk.tickNum =
          ((s.pkg p).tk.eraTick + (time.toNat - (s.pkg p).tk.eraTime) / (16000 * (s.pkg p).tk.period)) % 2 ^ 48) ∧
        (time.toNat < (s.pkg p).tk.eraTime →
          (t.pkg p).tk.tickNum = time.toNat / (16000 * (s.pkg p).tk.period) % 2 ^ 48)) ∧
    (∀ (p : PkgId) (time : BitVec 64) (s : State), (s.pkg p).live = true → (s.pkg p).tk.everLocked = true →
      Answers (.tkPhaseWrite p time) s fun t => (t.pkg p) = (s.pkg p)) ∧
    (∀ (p : PkgId) (v : BitVec 32) (s : State), (s.pkg p).live = true →
      (8 ≤ v.toNat % 128 → v.toNat % 128 ≤ 64 → s.periodShort (p / 64) (v.toNat % 128) = 0 →
        Answers (.tkPeriodNextWrite p v) s fun t =>
          (t.pkg p).tk = { (s.pkg p).tk with periodNext := v.toNat % 128 }) ∧
      (8 ≤ v.toNat % 128 → v.toNat % 128 ≤ 64 → s.periodShort (p / 64) (v.toNat % 128) ≠ 0 →
        Answers (.tkPeriodNextWrite p v) s fun t => t.pkgs = s.pkgs ∧ (t.stand (p / 64)).alarms =
          (s.stand (p / 64)).alarms ++ [.configShort (s.periodShort (p / 64) (v.toNat % 128))]) ∧
      (v.toNat % 128 < 8 ∨ 64 < v.toNat % 128 → Answers (.tkPeriodNextWrite p v) s fun t => t = s)) ∧
    (∀ (p : PkgId) (v : BitVec 48) (s : State), (s.pkg p).live = true →
      Answers (.tkSwitchTickWrite p v) s fun t => t = s.setPkg p { s.pkg p with tk :=
        if v = 0 ∨ (s.pkg p).tk.tickNum + 2 ≤ v.toNat then { (s.pkg p).tk with switchTick := v.toNat }
        else { (s.pkg p).tk with switchRefused := true } }) ∧
    (∀ (p : PkgId) (s : State), (s.pkg p).live = true → (s.pkg p).tk.switchTick ≠ 0 →
      (s.pkg p).tk.switchTick ≤ (s.pkg p).tk.tickNum →
      Answers (.periodSwitch p) s fun t =>
        (t.pkg p).tk = { (s.pkg p).tk with period := (s.pkg p).tk.periodNext, switchTick := 0,
                                           eraTick := (s.pkg p).tk.tickNum, eraTime := (s.pkg p).tk.tickTime } ∧
        (t.pkg p).rt.ovfCeil = (s.pkg p).rt.ovfCeil * (s.pkg p).tk.periodNext / (s.pkg p).tk.period ∧
        (∀ f, (t.pkg p).comm.budget.get 0 f = (s.pkg p).comm.budget.get 0 f * (s.pkg p).tk.periodNext / (s.pkg p).tk.period) ∧
        ((s.pkg p).tok.bringup = false → (t.pkg p).tok.base = (t.stand (p / 64)).base ∧
          (t.pkg p).tok.cap = (t.stand (p / 64)).cap ∧ (t.pkg p).tok.bank ≤ (t.pkg p).tok.cap) ∧
        ∀ k, ((t.pkg p).bole k).sched.active =
          if (if ((s.pkg p).bole k).sched.active = 2 then ((s.pkg p).bole k).sched.hdrB
              else ((s.pkg p).bole k).sched.hdrA).periodUs = (s.pkg p).tk.periodNext then ((s.pkg p).bole k).sched.active else 0)) ∧
  ((∀ (p : PkgId) (offset : Int) (rtt : Nat) (s : State), (s.pkg p).live = true →
      let m := s.syncMeasured p offset rtt
      (s.syncStamps p = none → m = (offset, rtt)) ∧
      Answers (.tickSyncExchange p offset rtt) s fun t =>
        (t.pkg p).tk.offset = m.1 ∧ (t.pkg p).tk.rtt = m.2 ∧ (t.pkg p).tk.holdover = false ∧ (t.pkg p).tk.noExch = 0 ∧
        (t.pkg p).tk.count s.now = (s.pkg p).tk.count s.now ∧
        (4000 * (s.pkg p).tk.period < m.1.natAbs → (t.pkg p).tk.lost = true) ∧
        (m.1.natAbs ≤ 4000 * (s.pkg p).tk.period → (s.pkg p).tk.lost = false → (s.pkg p).tk.locked = false →
          15 ≤ (s.pkg p).tk.inLock → m.1.natAbs ≤ 16 → (t.pkg p).tk.locked = true ∧ (t.pkg p).tk.unlocked = false) ∧
        (m.1.natAbs ≤ 4000 * (s.pkg p).tk.period → (s.pkg p).tk.lost = false → (s.pkg p).tk.locked = true →
          ((s.isBorder p && (s.pkg p).tk.groveHoldover) = false → 3 ≤ (s.pkg p).tk.outLock → 32 < m.1.natAbs →
            (t.pkg p).tk.locked = false ∧ (t.pkg p).tk.unlocked = true ∧ (t.pkg p).tk.rate.natAbs ≤ 50000) ∧
          (m.1.natAbs ≤ 32 → (t.pkg p).tk.locked = true))) ∧
    (∀ (p : PkgId) (s : State), (s.pkg p).live = true → 64 ≤ (s.pkg p).tk.noExch → s.isBorder p = false →
      Answers (.tickHoldoverExpire p) s fun t => (t.pkg p).tk.locked = false ∧ (t.pkg p).tk.unlocked = true ∧
        ((s.pkg p).tk.unlocked = false → ((t.pkg p).fn 0).pkgLeaf &&& 1 = 1)) ∧
    (∀ (st : StandIx) (s : State), s.borderLost st = true →
      Answers (.groveHoldoverStart st) s fun t => ∀ u ∈ s.downstream st, (t.stand u).timeHoldover = true ∧
        ∀ n < 64, (s.pkg (64 * u + n)).powered = true → (t.pkg (64 * u + n)).tk.groveHoldover = true) ∧
    (∀ (st : StandIx) (s : State), s.borderLost st = false ∨ s.borderSilent st = false →
      Answers (.groveUnlock st) s fun t => t = s) ∧
    (∀ (st : StandIx) (s : State), s.borderLost st = true →
      ((s.pkg (64 * st)).live = true ∧ 64 ≤ (s.pkg (64 * st)).tk.noExch) ∨
        (∃ a, (s.stand st).lostAt = some a ∧ a + 64 * (1500 * (s.stand st).period) ≤ s.now) →
      Answers (.groveUnlock st) s fun t => ∀ u ∈ s.downstream st, ∀ n < 64, (s.pkg (64 * u + n)).powered = true →
        (t.pkg (64 * u + n)).tk.groveUnlocked = true ∧ ((t.pkg (64 * u + n)).fn 0).pkgLeaf &&& 1 = 1) ∧
    (∀ (ppb mapping : Int) (s : State), (s.stand 0).lead = true →
      Answers (.grandmasterSync ppb mapping) s fun t => t.pkgs = s.pkgs ∧ (t.stand 0).mapping = mapping ∧
        -10000 ≤ (t.stand 0).rate ∧ (t.stand 0).rate ≤ 10000 ∧ (ppb.natAbs ≤ 10000 → (t.stand 0).rate = ppb)))

/-! ### Chapters 01 and 03: positions, memory, the overflow window -/

/-- DERIVED (rests on R19, R21, R135, R136, R140): every logical bole has a router of its own in its column, never the one of
the skipped row, and that router's logical bole is it; the router at the skipped row has none. The direction bit. Followed
hop by hop it leads from s to d; in a ring that the glade spans by a shortest way, ties going by the parity of s, and in one
that it does not span by the direct way, which never wraps. The output port of a head at a logical router: along X until the
column is reached, then along Y, then the bole; leaving the X leg, or starting, it takes virtual channel 0 on the Y leg, and
a hop across the wrap takes 1. -/
def Obligations.LogicalBolesAndRoutes : Prop :=
  (∀ (P : Package) (k : Nat), k < 64 → P.skipped (k % 8) ≤ 8 →
      P.rtrOf k / 9 = k % 8 ∧ P.rtrOf k < 72 ∧ P.rtrOf k % 9 = (if k / 8 < P.skipped (k % 8) then k / 8 else k / 8 + 1) ∧
      P.boleAt (P.rtrOf k) = some k ∧ P.boleAt (9 * (k % 8) + P.skipped (k % 8)) = none ∧
      ∀ j < 64, P.skipped (j % 8) ≤ 8 → P.rtrOf j = P.rtrOf k → j = k) ∧
  (∀ (spans : Bool) (len s d : Nat), s < len → d < len →
      (ringStep len · (dirOf spans len s d))^[if dirOf spans len s d then subMod len s d else subMod len d s] s = d ∧
      (spans = true → 2 * (if dirOf spans len s d then subMod len s d else subMod len d s) ≤ len ∧
        (2 * subMod len d s = len → (dirOf spans len s d = true ↔ s % 2 = 1))) ∧
      (spans = false → (dirOf spans len s d = true ↔ d < s) ∧
        (if dirOf spans len s d then subMod len s d else subMod len d s) = (if d < s then s - d else d - s))) ∧
  (∀ (P : Package) (e : Env) (r inPort k : Nat) (h : Head), P.boleAt r = some k →
      (h.dstX ≠ P.boleX k → (P.route e r inPort h).1 = if h.dx then 3 else 1) ∧
      (h.dstX = P.boleX k → h.dstY ≠ P.boleY k → (P.route e r inPort h).1 = if h.dy then 0 else 2) ∧
      (h.dstX = P.boleX k → h.dstY = P.boleY k → (P.route e r inPort h).1 = 4 ∧ (P.route e r inPort h).2 = h.vc) ∧
      (h.dstX ≠ P.boleX k → h.dx = false → P.boleX k = 64 * e.w - 1 → (P.route e r inPort h).2 = 1) ∧
      (h.dstX ≠ P.boleX k → h.dx = true → P.boleX k = 0 → (P.route e r inPort h).2 = 1) ∧
      (h.dstX = P.boleX k → h.dstY ≠ P.boleY k → inPort = 1 ∨ inPort = 3 ∨ inPort = 4 →
        P.boleY k ≠ 0 → P.boleY k ≠ 64 * e.h - 1 → (P.route e r inPort h).2 = 0))

/-- STATED (R58): the bank, row and byte of a leaf address: 32 banks of 3,072 rows of 64 bytes, and every byte of every row is
one leaf address. -/
def Obligations.LeafBankHash : Prop :=
  (∀ a, a < 0x600000 → leafBank a = a / 64 % 32 ^^^ a / 2048 % 32 ∧ leafBank a < 32 ∧ leafRow a = a / 2048 ∧ leafRow a < 3072) ∧
  (∀ b r o, b < 32 → r < 3072 → o < 64 → ∃ a, a < 0x600000 ∧ leafBank a = b ∧ leafRow a = r ∧ a % 64 = o ∧
    ∀ a', a' < 0x600000 → leafBank a' = b → leafRow a' = r → a' % 64 = o → a' = a)

/-- STATED (R62): the slice, row and byte of a heartwood offset: 16 slices of 32,768 rows of 128 bytes, and every byte of
every row is one offset, which is h[25:0] of the local address in either heartwood range, of either half and of every
package. -/
def Obligations.HeartwoodSliceHash : Prop :=
  (∀ k a n, 0 < n → (0x40000000 ≤ a ∧ a + n ≤ 0x44000000 → regionOf k a n = .heart (halfOf k) (a % 0x4000000)) ∧
    (0x48000000 ≤ a ∧ a + n ≤ 0x4C000000 → regionOf k a n = .heart (otherHalf (halfOf k)) (a % 0x4000000))) ∧
  (∀ h, h < 0x4000000 → heartSlice h = h / 128 % 16 ^^^ h / 2048 % 16 ^^^ h / 32768 % 16 ^^^ h / 524288 % 16 ^^^ h / 8388608 % 8 ∧
    heartSlice h < 16 ∧ heartRow h = h / 2048 ∧ heartRow h < 32768) ∧
  (∀ l r o, l < 16 → r < 32768 → o < 128 → ∃ h, h < 0x4000000 ∧ heartSlice h = l ∧ heartRow h = r ∧ h % 128 = o ∧
    ∀ h', h' < 0x4000000 → heartSlice h' = l → heartRow h' = r → h' % 128 = o → h' = h)

/-- DERIVED (rests on R58, R67, R69, R247, R248, Table 3.3): a load by a bole's program. From leaf memory that holds no
poison and no wrong code, and in which no error comes up that cannot be corrected, it returns the bytes that stand there;
from its own half's heartwood, inside the glade's allocation, likewise; of a granule that is poisoned, or becomes so at this
access, it faults with memory poison, and outside every range it faults with address error, what an earlier load returned
then standing. No byte of any memory changes. A store by a bole's program. To leaf memory, and to heartwood inside the
glade's allocation in the bole's own half, the bytes named change and no other byte of any memory does; to the ranges that
take no store it faults with address error and changes no byte. -/
def Obligations.ProgramLoadsAndStores : Prop :=
  ((∀ (p : PkgId) (k : BoleIx) (a n : Nat) (c : MemCond) (s : State), (s.pkg p).live = true → (s.pkg p).up k = true →
      ((s.pkg p).bole k).running = true → a + n ≤ 0x600000 → ((s.pkg p).bole k).leaf.mem.poison = [] →
      ((s.pkg p).bole k).leaf.mem.ecc = [] → (∀ u ∈ c.upsets, u.2 = false) →
      Answers (.boleLoad p k a n c) s fun t => ((t.pkg p).bole k).loaded = (List.range n).map (fun i => s.leafByte p k (a + i)) ∧
        (∀ p' k' a', t.leafByte p' k' a' = s.leafByte p' k' a') ∧ ∀ p' h o, t.heartByte p' h o = s.heartByte p' h o) ∧
    (∀ (p : PkgId) (k : BoleIx) (o n : Nat) (c : MemCond) (s : State), (s.pkg p).live = true → (s.pkg p).up k = true →
      ((s.pkg p).bole k).running = true → o + n ≤ 0x4000000 → (s.pkg p).heartOk ((s.pkg p).tagOf k) (halfOf k) o n = true →
      ((s.pkg p).heart (halfOf k)).poison = [] → ((s.pkg p).heart (halfOf k)).ecc = [] →
      (∀ u ∈ c.upsets, u.2 = false) →
      Answers (.boleLoad p k (0x40000000 + o) n c) s fun t =>
        ((t.pkg p).bole k).loaded = (List.range n).map (fun i => s.heartByte p (halfOf k) (o + i)) ∧
        (∀ p' k' a', t.leafByte p' k' a' = s.leafByte p' k' a') ∧ ∀ p' h o', t.heartByte p' h o' = s.heartByte p' h o') ∧
    (∀ (p : PkgId) (k : BoleIx) (a n : Nat) (c : MemCond) (s : State), (s.pkg p).live = true → (s.pkg p).up k = true →
      ((s.pkg p).bole k).running = true → a + n ≤ 0x600000 → ((s.pkg p).bole k).leaf.mem.poisoned 64 a n = true ∨
        (∃ u ∈ c.upsets, u.2 = true ∧ 0 < n ∧ a / 64 ≤ u.1 / 8 ∧ u.1 / 8 ≤ (a + n - 1) / 64) →
      ((s.pkg p).bole k).cause.leaf &&& 1 = 0 →
      Answers (.boleLoad p k a n c) s fun t => ((t.pkg p).bole k).leaf.mem.poisoned 64 a n = true ∧ ((t.pkg p).bole k).loaded = ((s.pkg p).bole k).loaded ∧
        ((t.pkg p).bole k).cause.leaf &&& 1 = 1 ∧ ((t.pkg p).bole k).cause.fcode = 3 ∧ ((t.pkg p).bole k).cause.finfo = a ∧
        ∀ p' k' a', t.leafByte p' k' a' = s.leafByte p' k' a') ∧
    (∀ (p : PkgId) (k : BoleIx) (a n : Nat) (c : MemCond) (s : State), (s.pkg p).live = true → (s.pkg p).up k = true →
      ((s.pkg p).bole k).running = true → 0x600000 ≤ a → a < 0x1000000 → 0 < n → a + n ≤ 0x1000000 →
      ((s.pkg p).bole k).cause.leaf &&& 1 = 0 →
      Answers (.boleLoad p k a n c) s fun t => ((t.pkg p).bole k).loaded = ((s.pkg p).bole k).loaded ∧
        ((t.pkg p).bole k).cause.leaf &&& 1 = 1 ∧ ((t.pkg p).bole k).cause.fcode = 1 ∧ ((t.pkg p).bole k).cause.finfo = a ∧
        (∀ p' k' a', t.leafByte p' k' a' = s.leafByte p' k' a') ∧ ∀ p' h o, t.heartByte p' h o = s.heartByte p' h o)) ∧
  ((∀ (p : PkgId) (k : BoleIx) (a : Nat) (bs : List Byte) (c : MemCond) (s : State), s.memWf → (s.pkg p).live = true →
      (s.pkg p).up k = true → ((s.pkg p).bole k).running = true → a + bs.length ≤ 0x600000 →
      Answers (.boleStore p k a bs c) s fun t =>
        (∀ i < bs.length, t.leafByte p k (a + i) = bs.getD i 0) ∧
        (∀ p' k' a', (p' ≠ p ∨ k' ≠ k ∨ a' < a ∨ a + bs.length ≤ a') → t.leafByte p' k' a' = s.leafByte p' k' a') ∧
        ∀ p' h o, t.heartByte p' h o = s.heartByte p' h o) ∧
    (∀ (p : PkgId) (k : BoleIx) (o : Nat) (bs : List Byte) (c : MemCond) (s : State), s.memWf → (s.pkg p).live = true →
      (s.pkg p).up k = true → ((s.pkg p).bole k).running = true → o + bs.length ≤ 0x4000000 →
      (s.pkg p).heartOk ((s.pkg p).tagOf k) (halfOf k) o bs.length = true →
      Answers (.boleStore p k (0x40000000 + o) bs c) s fun t =>
        (∀ i < bs.length, t.heartByte p (halfOf k) (o + i) = bs.getD i 0) ∧
        (∀ p' h o', (p' ≠ p ∨ h ≠ halfOf k ∨ o' < o ∨ o + bs.length ≤ o') → t.heartByte p' h o' = s.heartByte p' h o') ∧
        ∀ p' k' a', t.leafByte p' k' a' = s.leafByte p' k' a') ∧
    (∀ (p : PkgId) (k : BoleIx) (a : Nat) (bs : List Byte) (c : MemCond) (s : State), (s.pkg p).live = true →
      (s.pkg p).up k = true → ((s.pkg p).bole k).running = true → 0 < bs.length → 0x80000000 ≤ a →
      a + bs.length ≤ 0x100000000 → ((s.pkg p).bole k).cause.leaf &&& 1 = 0 →
      Answers (.boleStore p k a bs c) s fun t => ((t.pkg p).bole k).cause.leaf &&& 1 = 1 ∧
        ((t.pkg p).bole k).cause.fcode = 1 ∧ ((t.pkg p).bole k).cause.finfo = a ∧
        (∀ p' k' a', t.leafByte p' k' a' = s.leafByte p' k' a') ∧ ∀ p' h o, t.heartByte p' h o = s.heartByte p' h o))

/-- DERIVED (rests on R67): two functions' glades on one package. What the crossbar admits to the boles of one tag it
refuses to the boles of another, as long as the two allocations do not overlap, and it refuses it to a bole of no glade and
to the PF. -/
def Obligations.HeartwoodAllocationsAreApart : Prop :=
  ∀ (P : Package) (t u : Nat) (h : Half) (o n : Nat), 0 < n → t ≠ 0 → t ≠ u → P.heartOk t h o n = true →
    (u ≠ 0 → P.fnOfTag u ≠ 0 →
      (mib * ((P.hwa h (P.fnOfTag t - 1)).base + (P.hwa h (P.fnOfTag t - 1)).size) ≤ mib * (P.hwa h (P.fnOfTag u - 1)).base ∨
       mib * ((P.hwa h (P.fnOfTag u - 1)).base + (P.hwa h (P.fnOfTag u - 1)).size) ≤ mib * (P.hwa h (P.fnOfTag t - 1)).base) →
      P.heartOk u h o n = false) ∧
    (u = 0 → P.heartOk u h o n = false)

/-- DERIVED (rests on R24, R70, R72, R75, R76, R180, R496): NI DMA. A write or a read of g granules inside the glade queues
ceil(g / 32) requests of at most 32 granules in ascending order, under one new operation; a read of the bole's own overflow
window waits at the Root DMA port, in the arbiter's queue where that has room and credit, and faults beyond RT_OVF_SIZE; the
port admits no request that the function's budget does not cover; the stream that holds the port issues its next PCIe read,
up to a 512 B boundary, counted in 64 B units; and when the completion comes, the data stands in leaf memory. -/
def Obligations.NiDma : Prop :=
  (∀ (p : PkgId) (k : BoleIx) (d : Dma) (s : State), (s.pkg p).live = true → (s.pkg p).up k = true →
    ((s.pkg p).bole k).running = true → ((s.pkg p).glade k).holds d.dstX d.dstY = true → d.leaf + 64 * d.granules ≤ 0x600000 →
    Answers (.niDmaWrite p k d) s fun t => ((t.pkg p).bole k).ni.nextOp = ((s.pkg p).bole k).ni.nextOp + 1 ∧
      ((t.pkg p).bole k).ni.q.get [] 0 = ((s.pkg p).bole k).ni.q.get [] 0 ++
        (List.range ((d.granules + 31) / 32)).map fun i =>
          { what := .req { op := .write, dstX := d.dstX, dstY := d.dstY, loc := d.loc + 64 * (32 * i), ord := d.ord,
                           src := d.leaf + 64 * (32 * i), len := 64 * min 32 (d.granules - 32 * i), body := [] }
              (min 32 (d.granules - 32 * i))
            op := ((s.pkg p).bole k).ni.nextOp, pushedAt := s.now }) ∧
  (∀ (p : PkgId) (k : BoleIx) (d : Dma) (s : State), (s.pkg p).live = true → (s.pkg p).up k = true →
    ((s.pkg p).bole k).running = true → ((s.pkg p).glade k).holds d.dstX d.dstY = true → d.leaf + 64 * d.granules ≤ 0x600000 →
    d.leaf % 64 = 0 → 0 < d.granules → d.loc < 0x80000000 →
    Answers (.niDmaRead p k d) s fun t => ((t.pkg p).bole k).ni.nextOp = ((s.pkg p).bole k).ni.nextOp + 1 ∧
      ((t.pkg p).bole k).ni.q.get [] 0 = ((s.pkg p).bole k).ni.q.get [] 0 ++
        (List.range ((d.granules + 31) / 32)).map fun i =>
          { what := .req { op := .read, dstX := d.dstX, dstY := d.dstY, loc := d.loc + 64 * (32 * i), ord := d.ord,
                           src := 0, len := 0,
                           body := leBytes 4 (d.leaf + 64 * (32 * i)) ++ leBytes 1 (min 32 (d.granules - 32 * i) - 1) } 0
            op := ((s.pkg p).bole k).ni.nextOp, pushedAt := s.now }) ∧
  (∀ (p : PkgId) (k : BoleIx) (d : Dma) (s : State), (s.pkg p).live = true → (s.pkg p).up k = true →
    ((s.pkg p).bole k).running = true → (s.pkg p).isOverflow k d = true → d.leaf + 64 * d.granules ≤ 0x600000 →
    d.leaf % 64 = 0 → 0 < d.granules →
    (d.loc - 0x80000000 + 64 * d.granules ≤ 4096 * ((s.pkg p).fn ((s.pkg p).fnOf k)).ovfSize →
      ((s.pkg p).fn ((s.pkg p).fnOf k)).master = true → ((s.pkg p).fn ((s.pkg p).fnOf k)).inReset = false →
      Answers (.niDmaRead p k d) s fun t => (t.pkg p).rt.ovfPend = (s.pkg p).rt.ovfPend ++
        [{ bole := k, op := ((s.pkg p).bole k).ni.nextOp, off := d.loc - 0x80000000, leaf := d.leaf,
           len := 64 * d.granules }] ∧ (t.pkg p).rt.reads = (s.pkg p).rt.reads ∧
        ((s.pkg p).arb 32 = Arb.init 32 → (s.pkg p).rt.credit = true → (s.pkg p).ovfHead ((s.pkg p).fnOf k) = none →
          (∀ f : FnIx, f.val ≠ (s.pkg p).fnOf k → (s.pkg p).ovfHead f = none) → (s.pkg p).fnOf k < 17 →
          (((t.pkg p).arb 32).q.map fun e => (e.req, e.cls)) = [(64 + (s.pkg p).fnOf k, 2)])) ∧
    (4096 * ((s.pkg p).fn ((s.pkg p).fnOf k)).ovfSize < d.loc - 0x80000000 + 64 * d.granules →
      ((s.pkg p).bole k).cause.leaf &&& 1 = 0 →
      Answers (.niDmaRead p k d) s fun t => ((t.pkg p).bole k).cause.fcode = 4 ∧
        (t.pkg p).rt.ovfPend = (s.pkg p).rt.ovfPend)) ∧
  (∀ (P : Package) (x : ArbEntry) (o : OvfPend), 64 ≤ x.req → x.req ≤ 80 → P.ovfHead (x.req - 64) = some o →
    P.arbAdmits 32 x = true → (P.fn (x.req - 64)).master = true ∧ (P.fn (x.req - 64)).inReset = false ∧
      P.rt.ovfUsed.get 0 (x.req - 64) + unitsOf (ovfCuts (P.fn (x.req - 64)).mrrs (x.len - x.done) o.off o.len) ≤
        P.comm.budget.get 0 (x.req - 64)) ∧
  (∀ (p : PkgId) (f : FnIx) (s : State) (o : OvfPend) (c : ArbCur), (s.pkg p).live = true → (s.pkg p).ovfHead f = some o →
    ((s.pkg p).arb 32).driven = false → ((s.pkg p).arb 32).plan = .keep → ((s.pkg p).arb 32).withdraw = false →
    ((s.pkg p).arb 32).cur = some c → c.e.req = 64 + f.val → c.ownerDead = false → (s.pkg p).rt.credit = true →
    (s.pkg p).readRoom f = true → let n := min o.len (min (512 - o.off % 512) ((s.pkg p).fn f).mrrs)
    Answers (.overflowReadIssue p f) s fun t =>
      (t.pkg p).rt.reads = (s.pkg p).rt.reads ++ [{ tag := (s.pkg p).freeTag, fn := f, len := n,
                                                    addr := ((s.pkg p).fn f).ovfBase + o.off,
                                                    what := .overflow o.bole o.op o.leaf }] ∧
      .memRd f (((s.pkg p).fn f).ovfBase + o.off) n (s.pkg p).freeTag ((s.pkg p).fn f).relax ∈ (t.pkg p).rt.tlps ∧
      (t.pkg p).rt.ovfUsed.get 0 f = (s.pkg p).rt.ovfUsed.get 0 f + (n + 63) / 64) ∧
  (∀ (p : PkgId) (tag k op leaf : Nat) (data : List Byte) (x : HostRead) (s : State), s.memWf → (s.pkg p).live = true →
    (s.pkg p).readTagged tag = some x → x.what = .overflow k op leaf → data.length = x.len →
    Answers (.overflowReadCompletion p tag .ok data) s fun t =>
      (∀ i < data.length, t.leafByte p k (leaf + i) = data.getD i 0) ∧
      (∀ p' k' a', (p' ≠ p ∨ k' ≠ k ∨ a' < leaf ∨ leaf + data.length ≤ a') → t.leafByte p' k' a' = s.leafByte p' k' a') ∧
      ∀ p' h o, t.heartByte p' h o = s.heartByte p' h o)

/-- DERIVED (rests on R68, R73, R247, R450, R469): a budget inside the ceiling is taken and one that would pass it leaves
every budget and sets BADCFG of the PF; RT_ZERO sets BUSY with its slot, and when it is done the leaf memory of the glade's
boles, and its allocations, read 0 and BUSY gives way to DONE; a corrected word that is written back has a good code. -/
def Obligations.BudgetsZeroingAndScrubbing : Prop :=
  (∀ (p : PkgId) (f : FnIx) (units : BitVec 16) (s : State), (s.pkg p).live = true →
    (((List.range 17).map fun g => ((s.pkg p).stag.budget.set f units.toNat).get 0 g).sum ≤ (s.pkg p).rt.ovfCeil →
      Answers (.rtOvfBudgetWrite p f .staged units) s fun t => (t.pkg p).stag.budget.get 0 f = units.toNat ∧
        (∀ g, g ≠ f → (t.pkg p).stag.budget.get 0 g = (s.pkg p).stag.budget.get 0 g) ∧ (t.pkg p).comm = (s.pkg p).comm) ∧
    ((s.pkg p).rt.ovfCeil < ((List.range 17).map fun g => ((s.pkg p).stag.budget.set f units.toNat).get 0 g).sum →
      Answers (.rtOvfBudgetWrite p f .staged units) s fun t => (t.pkg p).stag = (s.pkg p).stag ∧
        (t.pkg p).comm = (s.pkg p).comm ∧ ((t.pkg p).fn 0).badCfg = true)) ∧
  (∀ (p : PkgId) (slot : Fin 16) (s : State), (s.pkg p).live = true → (s.pkg p).rt.zeroBusy = false →
    Answers (.rtZeroStart p slot) s fun t =>
      t = s.setPkg p { s.pkg p with rt := { (s.pkg p).rt with zeroBusy := true, zeroSlot := slot } }) ∧
  (∀ (p : PkgId) (s : State), (s.pkg p).live = true → (s.pkg p).rt.zeroBusy = true →
    (s.stand (s.leadOf (p / 64))).replant = none →
    Answers (.rtZeroDone p) s fun t => (t.pkg p).rt.zeroBusy = false ∧ (t.pkg p).rt.zeroDone = true ∧
      (∀ k < 64, (s.pkg p).comm.vfGlade.get 0 ((s.pkg p).rt.zeroSlot + 1) ≠ 0 →
        (s.pkg p).tagOf k = (s.pkg p).comm.vfGlade.get 0 ((s.pkg p).rt.zeroSlot + 1) →
        ∀ a < 0x600000, t.leafByte p k a = 0) ∧
      (∀ h o, mib * ((s.pkg p).hwa h (s.pkg p).rt.zeroSlot).base ≤ o →
        o < mib * ((s.pkg p).hwa h (s.pkg p).rt.zeroSlot).base + mib * ((s.pkg p).hwa h (s.pkg p).rt.zeroSlot).size →
        t.heartByte p h o = 0)) ∧
  (∀ (p : PkgId) (k : BoleIx) (word : Nat) (s : State), (s.pkg p).live = true →
    ((s.pkg p).bole k).leaf.mem.ecc.get 0 word = 1 →
    Answers (.memoryScrubWriteback p (.leaf k) word) s fun t => ((t.pkg p).bole k).leaf.mem.ecc.get 0 word = 0 ∧
      ∀ p' k' a', t.leafByte p' k' a' = s.leafByte p' k' a') ∧
  (∀ (p : PkgId) (h : Half) (word : Nat) (s : State), (s.pkg p).live = true → ((s.pkg p).heart h).ecc.get 0 word = 1 →
    Answers (.memoryScrubWriteback p (.heart h) word) s fun t => ((t.pkg p).heart h).ecc.get 0 word = 0 ∧
      ∀ p' h' o, t.heartByte p' h' o = s.heartByte p' h' o)

/-! ### Chapter 04: arbiters -/

/-- DERIVED (rests on R86, R87, R88, R92, R93): whom a decision chooses among entries whose stamps lie within half the stamp
range of some base: an ordinary grant goes to an entry of the highest class that none of its class is older than, a reserve
grant to an entry that none at all is older than; with any entry there is a choice. A pending queue of at most 16 entries
stays so whatever is presented, no entry that waits leaves by it, and the grant count stays below N through every step of an
arbiter cycle, so that every N-th grant is a reserve grant. A mask takes every entry of its requester out and its depth
changes leave at most one crossing of the watermark in a cycle. -/
def Obligations.ArbiterDecisionsAndBounds : Prop :=
  (∀ (es : List ArbEntry) (base : Nat), (∀ x ∈ es, x.stamp < 4096 ∧ subMod 4096 x.stamp base < 2048) →
      (∀ e, bestOf es = some e → e ∈ es ∧ ∀ x ∈ es, x.cls < e.cls ∨
        (x.cls = e.cls ∧ subMod 4096 e.stamp base ≤ subMod 4096 x.stamp base)) ∧
      (∀ e, oldestOf es = some e → e ∈ es ∧ ∀ x ∈ es, subMod 4096 e.stamp base ≤ subMod 4096 x.stamp base) ∧
      (es ≠ [] → (bestOf es).isSome = true ∧ (oldestOf es).isSome = true)) ∧
  ((∀ (i : Nat) (a : Arb) (reqs : List ArbReq) (cls : Nat → Nat) (now : Nat), a.q.length ≤ 16 →
      (Arb.accept i a reqs cls now).1.q.length ≤ 16 ∧ a.q <+: (Arb.accept i a reqs cls now).1.q) ∧
    (∀ (a : Arb) (admits : ArbEntry → Bool), a.cnt < a.n →
      (a.decide admits).cnt < (a.decide admits).n ∧ (a.decide admits).n = a.n ∧
      ((a.decide admits).planReserve = true → (a.decide admits).cnt = 0 ∨ ∃ x ∈ a.q, x.reserve = true)) ∧
    (∀ (a : Arb) (now r : Nat), (a.step1 now).1.cnt = a.cnt ∧ (a.step1 now).1.n = a.n ∧ (a.mask r).cnt = a.cnt ∧
      (a.mask r).n = a.n ∧ (a.masked.contains r = false → (a.mask r).q = a.q.filter fun e => e.req != r)) ∧
    (∀ (q : QMon) (cyc d d' : Nat), ((q.depth cyc none d).1.depth cyc none d').1.wm = ((q.begun cyc).wm.depth d').1) ∧
    (∀ (i : Nat) (a : Arb) (v : Nat), a.cnt < a.n → (Arb.writeCtrl i a v).cnt < (Arb.writeCtrl i a v).n))

/-- DERIVED (rests on R85 to R93, R98 to R102): the rows of an arbiter. At a slice port one request to a queue with room
becomes its last entry with the next stamp and its requester's class, and one to a full queue is refused, counted once and
kept; an arbiter cycle with a free port plans the transfer that R87 or, when it is due, R88 names; one entry, one loser or
the transfer that holds the port is withdrawn (that a loser's context is freed is the model's choice, log 46); a mask whose
condition holds keeps the requester out until the condition is over and the mask is cleared; AR_CTRL takes each field within
its range until RT_SETUP_LOCK is set, and AR_CLASS at any time. -/
def Obligations.ArbiterRows : Prop :=
  (∀ (p : PkgId) (i : ArbIx) (r : ArbReq) (s : State), (s.pkg p).live = true → i.val < 32 → r.req < 34 →
    ((s.pkg p).arb i).refused = [] → ((s.pkg p).arb i).masked.contains r.req = false →
    (s.pkg p).siteMasked i r.req = false → ((s.pkg p).arb i).q.any (fun e => e.req == r.req && !e.loser) = false →
    (((s.pkg p).arb i).q.length < 16 →
      Answers (.arbRequest p i [r]) s fun t => ((t.pkg p).arb i).q = ((s.pkg p).arb i).q ++
        [{ req := r.req, len := r.len, lock := r.lock, isWrite := r.isWrite,
           cls := ((s.pkg p).arb i).cls.get (if r.req = 32 then 2 else 1) r.req,
           stamp := ((s.pkg p).arb i).seq, since := s.now }] ∧
        ((t.pkg p).arb i).seq = (((s.pkg p).arb i).seq + 1) % 4096 ∧ ((t.pkg p).arb i).refused = []) ∧
    (((s.pkg p).arb i).q.length = 16 →
      Answers (.arbRequest p i [r]) s fun t => ((t.pkg p).arb i).q = ((s.pkg p).arb i).q ∧
        ((t.pkg p).arb i).refused = [r] ∧
        ((t.pkg p).arb i).cntLive.get 0 arREFUSED = min 65535 (((s.pkg p).arb i).cntLive.get 0 arREFUSED + 1))) ∧
  (∀ (p : PkgId) (i : ArbIx) (e : ArbEntry) (s : State), (s.pkg p).live = true → (s.pkg p).arbRuns (s.env p) i = true →
    (∀ r, (s.pkg p).siteMasked i r = true → ((s.pkg p).arb i).masked.contains r = true) →
    ((s.pkg p).arb i).cur = none → ((s.pkg p).arb i).plan = .idle →
    (((s.pkg p).arb i).cnt ≠ ((s.pkg p).arb i).n - 1 → e.reserve = false →
      bestOf (((s.pkg p).arb i).q.filter fun x => !((s.pkg p).arb i).masked.contains x.req && (s.pkg p).arbAdmits i x) = some e →
      Answers (.arbGrant p i) s fun t => ((t.pkg p).arb i).plan = .start e none ∧ ((t.pkg p).arb i).driven = false ∧
        ((t.pkg p).arb i).q = ((s.pkg p).arb i).q ∧ ((t.pkg p).arb i).cnt = ((s.pkg p).arb i).cnt + 1 ∧
        ((t.pkg p).arb i).cntLive.get 0 arGRANT = min 65535 (((s.pkg p).arb i).cntLive.get 0 arGRANT + 1)) ∧
    (((s.pkg p).arb i).cnt = ((s.pkg p).arb i).n - 1 →
      oldestOf (((s.pkg p).arb i).q.filter fun x => !((s.pkg p).arb i).masked.contains x.req && (s.pkg p).arbAdmits i x) = some e →
      Answers (.arbReserveGrant p i) s fun t => ((t.pkg p).arb i).plan = .start { e with reserve := true } none ∧
        ((t.pkg p).arb i).driven = false ∧ ((t.pkg p).arb i).q = ((s.pkg p).arb i).q ∧ ((t.pkg p).arb i).cnt = 0 ∧
        ((t.pkg p).arb i).cntLive.get 0 arRESERVE = min 65535 (((s.pkg p).arb i).cntLive.get 0 arRESERVE + 1))) ∧
  (∀ (p : PkgId) (i : ArbIx) (req : Nat) (e : ArbEntry) (loser : Bool) (s : State), (s.pkg p).live = true →
    ((s.pkg p).arb i).plan = .idle → ((s.pkg p).arb i).q.find? (fun e => e.req == req && e.loser == loser) = some e →
    Answers (.arbWithdraw p i req (if loser then .loser else .entry)) s fun t =>
      ((t.pkg p).arb i).q = ((s.pkg p).arb i).q.erase e ∧ ((t.pkg p).arb i).cur = ((s.pkg p).arb i).cur ∧
      ((t.pkg p).arb i).ctxFree = ((s.pkg p).arb i).ctxFree + if e.ctx then 1 else 0) ∧
  (∀ (p : PkgId) (i : ArbIx) (c : ArbCur) (s : State), (s.pkg p).live = true → ((s.pkg p).arb i).plan = .keep →
    ((s.pkg p).arb i).cur = some c →
    Answers (.arbWithdraw p i c.e.req .transfer) s fun t =>
      (t.pkg p).arb i = { (s.pkg p).arb i with withdraw := true }) ∧
  (∀ (p : PkgId) (i : ArbIx) (req : Nat) (s : State), (s.pkg p).live = true →
    ((s.pkg p).siteMasked i req = true → (s.pkg p).arbRuns (s.env p) i = true →
      Answers (.arbMask p i req) s fun t => req ∈ ((t.pkg p).arb i).masked ∧
        (((s.pkg p).arb i).driven = true → ((s.pkg p).arb i).masked.contains req = false →
          ((t.pkg p).arb i).q = ((s.pkg p).arb i).q.filter (fun e => e.req != req)) ∧
        ∀ (k : Nat) (rs : List ArbReq), ∀ r ∈ Arb.presentable k ((t.pkg p).arb i) rs, r.req ≠ req) ∧
    ((s.pkg p).siteMasked i req = false → Answers (.arbMask p i req) s fun t => t.pkg p = s.pkg p) ∧
    ((s.pkg p).siteMasked i req = false → Answers (.arbMaskClear p i req) s fun t => req ∉ ((t.pkg p).arb i).masked ∧
      ((t.pkg p).arb i).q = ((s.pkg p).arb i).q) ∧
    ((s.pkg p).siteMasked i req = true → Answers (.arbMaskClear p i req) s fun t => t.pkg p = s.pkg p)) ∧
  (∀ (p : PkgId) (i : ArbIx) (v : BitVec 32) (s : State), (s.pkg p).live = true →
    ((s.pkg p).rt.lock = false →
      Answers (.arCtrlWrite p i v) s fun t =>
        ((t.pkg p).arb i).n = (if 2 ≤ v.toNat % 128 ∧ v.toNat % 128 ≤ 64 then v.toNat % 128 else ((s.pkg p).arb i).n) ∧
        ((t.pkg p).arb i).cnt = (if 2 ≤ v.toNat % 128 ∧ v.toNat % 128 ≤ 64 then 0 else ((s.pkg p).arb i).cnt) ∧
        ((t.pkg p).arb i).mode = (if v.toNat / 256 % 4 ≤ (if i.val < 32 then 2 else 1) then v.toNat / 256 % 4
          else ((s.pkg p).arb i).mode)) ∧
    ((s.pkg p).rt.lock = true → Answers (.arCtrlWrite p i v) s fun t => t = s.setPkg p (s.pkg p))) ∧
  (∀ (p : PkgId) (i : ArbIx) (n : Fin 6) (v : BitVec 32) (j : Nat) (s : State), (s.pkg p).live = true → j < 16 →
    16 * n.val + j < arbRequesters i →
    Answers (.arClassWrite p i n v) s fun t =>
      Arb.classOf i ((t.pkg p).arb i) (16 * n.val + j) = v.toNat / 4 ^ j % 4 ∧
      ((t.pkg p).arb i).q = ((s.pkg p).arb i).q)

/-! ### Chapter 05: sparsity -/

/-- DERIVED (rests on R111, R118, Tables 5.3 and 5.4, R121, Table 5.5): a block record passes its checks exactly when COUNT is
the number of set bits, VOFF is a multiple of the element size and the values fit the value area, and the reserved bits are
0; a 2:4 word that passes names 32 columns of its chunk, each once and in ascending order. Every block record that a
value-mode store writes passes every check, with the value offset where its values begin, as long as the offsets stay below
2^32. -/
def Obligations.SparseRecordsAreChecked : Prop :=
  ((∀ (es vasize : Nat) (r : List Byte), recCheck .bitmap es vasize r = 0 ↔
      recCount r = (setBits (recBitmap r)).length ∧ recVoff r % es = 0 ∧ recVoff r + recCount r * es ≤ vasize ∧
        recReserved r = false) ∧
    (∀ (es vasize : Nat) (r : List Byte), recCheck .two4 es vasize r = 0 →
      (two4Cols (fld r 0 8)).length = 32 ∧ (two4Cols (fld r 0 8)).Pairwise (· < ·) ∧ ∀ j ∈ two4Cols (fld r 0 8), j < 64)) ∧
  (∀ (c : CStore) (el : Nat → Nat → Nat) (off : Nat) (us : List (Nat × Nat)), off % c.dtype.es = 0 →
      off + 64 * c.dtype.es * us.length < 2 ^ 32 →
      ∀ u ∈ us, ∃ w ∈ valueWrites c el off us, w.1 = c.mdAddr + 16 * (u.1 * c.stride + u.2) ∧ w.2.length = 16 ∧
        recCheck .bitmap c.dtype.es (off + 64 * c.dtype.es * us.length) w.2 = 0 ∧
        setBits (recBitmap w.2) = occupied el u ∧ off ≤ recVoff w.2)

/-- DERIVED (rests on R116, R104 to R107, R113 to R116, R118, R127): an epoch's stealing over the 16 lanes moves units and
neither loses nor repeats one. A matrix step's rows. A step presented while none is staged gets the next number and either
stands staged with its operands or faults; a dense one whose operands lie in leaf memory that holds no poison stands staged
with its panel. The staged step begins when none runs, with C read then; an epoch walks at least one cycle and at most
eight; and when the walk is over the output tile stands at the destination and nothing else changes. -/
def Obligations.MatrixStepsAndStealing : Prop :=
  (∀ ls : List SpLane, ls.length = 16 →
      (((stealAll ls).1.flatMap fun L => L.q ++ L.fromPrev ++ L.fromNext).map fun u => (u.i, u.c)).Perm
        ((ls.flatMap fun L => L.q ++ L.fromPrev ++ L.fromNext).map fun u => (u.i, u.c)) ∧
      (stealAll ls).1.map (fun L => L.cur) = ls.map (fun L => L.cur)) ∧
  ((∀ (p : PkgId) (k : BoleIx) (m : MatStep) (c : List BankAsk) (s : State), (s.pkg p).live = true → (s.pkg p).up k = true →
      ((s.pkg p).bole k).running = true → ((s.pkg p).bole k).sp.staged = none →
      Answers (.matrixStep p k m c) s fun t =>
        ((t.pkg p).bole k).sp.stepNo = (((s.pkg p).bole k).sp.stepNo + 1) % 2 ^ 32 ∧
        ((∃ x, ((t.pkg p).bole k).sp.staged = some x ∧ x.m = m) ∨ ((t.pkg p).bole k).cause.leaf &&& 1 = 1) ∧
        ∀ p' k' a', t.leafByte p' k' a' = s.leafByte p' k' a') ∧
    (∀ (p : PkgId) (k : BoleIx) (m : MatStep) (c : List BankAsk) (s : State), (s.pkg p).live = true → (s.pkg p).up k = true →
      ((s.pkg p).bole k).running = true → ((s.pkg p).bole k).sp.staged = none → m.fmt = .dense → m.operandsOk = true →
      m.val + 4096 * m.stride * m.dtype.es ≤ 0x600000 → m.panel + 64 * m.k * m.dtype.es ≤ 0x600000 →
      m.cin + 16384 ≤ 0x600000 → m.dest + 16384 ≤ 0x600000 → ((s.pkg p).bole k).leaf.mem.poison = [] →
      ((s.pkg p).bole k).leaf.mem.ecc = [] →
      Answers (.matrixStep p k m c) s fun t => ∃ x, ((t.pkg p).bole k).sp.staged = some x ∧ x.m = m ∧
        x.panel = (List.range (64 * m.k * m.dtype.es)).map (fun i => s.leafByte p k (m.panel + i))) ∧
    (∀ (p : PkgId) (k : BoleIx) (x : SpStep) (s : State), (s.pkg p).live = true → (s.pkg p).up k = true →
      ((s.pkg p).bole k).running = true → ((s.pkg p).bole k).sp.cur = none → ((s.pkg p).bole k).sp.staged = some x →
      ((s.pkg p).bole k).leaf.mem.poison = [] → ((s.pkg p).bole k).leaf.mem.ecc = [] →
      Answers (.matrixStepIssue p k) s fun t => ((t.pkg p).bole k).sp.staged = none ∧
        ∃ y, ((t.pkg p).bole k).sp.cur = some y ∧ y.m = x.m ∧ y.panel = x.panel ∧
          y.tile = tileOf ((List.range 16384).map fun i => s.leafByte p k (x.m.cin + i)) ∧
          (x.m.fmt ≠ .bitmap → y.lanes = [])) ∧
    (∀ (p : PkgId) (k : BoleIx) (x : SpStep) (s : State), (s.pkg p).live = true → (s.pkg p).up k = true →
      ((s.pkg p).bole k).running = true → ((s.pkg p).bole k).sp.cur = some x → x.lanes.length = 16 → x.walked = false →
      Answers (.stealEpoch p k) s fun t => ∃ y, ((t.pkg p).bole k).sp.cur = some y ∧ y.m = x.m ∧ x.walk < y.walk ∧
        y.walk ≤ x.walk + 8 ∧
        ((t.pkg p).bole k).sp.cnt.get 0 spWALK = min 4294967295 (((s.pkg p).bole k).sp.cnt.get 0 spWALK + (y.walk - x.walk))) ∧
    (∀ (p : PkgId) (k : BoleIx) (x : SpStep) (s : State), s.memWf → (s.pkg p).live = true → (s.pkg p).up k = true →
      ((s.pkg p).bole k).running = true → ((s.pkg p).bole k).sp.cur = some x → x.walked = true →
      Answers (.matrixStepEnd p k) s fun t => ((t.pkg p).bole k).sp.cur = none ∧
        (∀ i < (tileBytes (if x.m.fmt = .bitmap then x else x.array).tile).length,
          t.leafByte p k (x.m.dest + i) = (tileBytes (if x.m.fmt = .bitmap then x else x.array).tile).getD i 0) ∧
        ∀ p' k' a', (p' ≠ p ∨ k' ≠ k ∨ a' < x.m.dest ∨
          x.m.dest + (tileBytes (if x.m.fmt = .bitmap then x else x.array).tile).length ≤ a') →
          t.leafByte p' k' a' = s.leafByte p' k' a'))

/-- DERIVED (rests on R121, R122, Table 5.5): the three compressing stores, their tile, records and values in leaf memory that
holds no poison. Memory is what it was with the writes of Table 5.5 carried out in order, the operation completes, and no
cause is raised. -/
def Obligations.CompressingStores : Prop :=
  (∀ (p : PkgId) (k : BoleIx) (c : CStore) (s : State), (s.pkg p).live = true → (s.pkg p).up k = true →
    ((s.pkg p).bole k).running = true → ((s.pkg p).bole k).leaf.mem.poison = [] → ((s.pkg p).bole k).leaf.mem.ecc = [] →
    c.fmt = .bitmap → c.cols % 64 = 0 → c.cols / 64 ≤ c.stride → c.mdAddr % 16 = 0 →
    c.tile + 4 * (c.rows * c.cols) ≤ 0x600000 → storeRecEnd c c.rows (c.cols / 64) ≤ 0x600000 →
    (∀ w ∈ valueWrites c (cstoreEl c false (Memory.readN ((s.pkg p).bole k).leaf.mem.bytes c.tile (4 * (c.rows * c.cols))))
      c.voff (setUnits c.rows (c.cols / 64)), w.1 + w.2.length ≤ 0x600000) →
    Answers (.storeValue p k c) s fun t => ((t.pkg p).bole k).cause = ((s.pkg p).bole k).cause ∧
      ((t.pkg p).bole k).ni.nextOp = ((s.pkg p).bole k).ni.nextOp + 1 ∧
      ((t.pkg p).bole k).leaf.mem.bytes =
        (valueWrites c (cstoreEl c false (Memory.readN ((s.pkg p).bole k).leaf.mem.bytes c.tile (4 * (c.rows * c.cols))))
          c.voff (setUnits c.rows (c.cols / 64))).foldl (fun m w => Memory.writeN m w.1 w.2)
          ((s.pkg p).bole k).leaf.mem.bytes) ∧
  (∀ (p : PkgId) (k : BoleIx) (c : CStore) (tr : Bool) (s : State), (s.pkg p).live = true → (s.pkg p).up k = true →
    ((s.pkg p).bole k).running = true → ((s.pkg p).bole k).leaf.mem.poison = [] → ((s.pkg p).bole k).leaf.mem.ecc = [] →
    c.fmt ≠ .dense → (if tr then c.rows else c.cols) % 64 = 0 → (if tr then c.rows else c.cols) / 64 ≤ c.stride →
    c.mdAddr % c.fmt.recSize = 0 → c.tile + 4 * (c.rows * c.cols) ≤ 0x600000 →
    storeRecEnd c (if tr then c.cols else c.rows) ((if tr then c.rows else c.cols) / 64) ≤ 0x600000 →
    (∀ w ∈ maskWrites c (cstoreEl c tr (Memory.readN ((s.pkg p).bole k).leaf.mem.bytes c.tile (4 * (c.rows * c.cols))))
      (setUnits (if tr then c.cols else c.rows) ((if tr then c.rows else c.cols) / 64))
      ((maskRecAddrs c (setUnits (if tr then c.cols else c.rows) ((if tr then c.rows else c.cols) / 64))).map
        (Memory.read ((s.pkg p).bole k).leaf.mem.bytes)), w.1 + w.2.length ≤ 0x600000) →
    Answers (if tr then .storeMaskTransposed p k c else .storeMask p k c) s fun t =>
      ((t.pkg p).bole k).cause = ((s.pkg p).bole k).cause ∧
      ((t.pkg p).bole k).ni.nextOp = ((s.pkg p).bole k).ni.nextOp + 1 ∧
      ((t.pkg p).bole k).leaf.mem.bytes =
        (maskWrites c (cstoreEl c tr (Memory.readN ((s.pkg p).bole k).leaf.mem.bytes c.tile (4 * (c.rows * c.cols))))
          (setUnits (if tr then c.cols else c.rows) ((if tr then c.rows else c.cols) / 64))
          ((maskRecAddrs c (setUnits (if tr then c.cols else c.rows) ((if tr then c.rows else c.cols) / 64))).map
            (Memory.read ((s.pkg p).bole k).leaf.mem.bytes))).foldl (fun m w => Memory.writeN m w.1 w.2)
          ((s.pkg p).bole k).leaf.mem.bytes)

/-! ### Chapters 06 and 07: the fabric, packets, injection -/

/-- DERIVED (rests on Tables 7.1, 7.3, 8.5, 13.1): no bit of a head header, of an eft or of a scheduled flit's header slot is
dropped: what its bits spell is read back field by field, for every value that the fields hold, and the bits above them are
0. -/
def Obligations.HeadersAndEftsRoundTrip : Prop :=
  (∀ h : Head, h.vn < 4 → h.vc < 2 → PktOp.ofCode h.op.code = h.op → h.op.code < 16 → h.age < 4 → h.dstX < 512 → h.dstY < 256 →
    h.srcX < 512 → h.srcY < 256 → h.tag < 32768 → h.alive < 65536 → h.loc < 2 ^ 32 → h.ecrc < 65536 →
    h.value < 2 ^ 128 ∧ Head.ofValue h.value = h) ∧
  (∀ e : Eft, e.kind < 16 → e.inbox < 16 → e.dstX < 512 → e.dstY < 256 → e.srcX < 512 → e.srcY < 256 → e.group < 64 →
    e.word < 8 → e.rop < 8 → e.fmt < 4 → e.epoch < 64 → e.value < 2 ^ 128 ∧ Eft.ofValue e.value = e) ∧
  (∀ f : SchedFlit, f.stream < 1024 → f.idx < 4096 → f.win2 < 4 → f.tag < 32768 →
    f.header < 2 ^ 41 ∧ SchedFlit.ofSlot f.header f.data = { f with hdrBad := false } ∧ f.resent = f) ∧
  (∀ c, c < 16 → (PktOp.ofCode c).code = c)

/-- DERIVED (rests on R175, R137, R160, R172 to R177): a flit expires by its AGE against the tick number: two windows after
its own and in the one after that, for any tick number. The fabric's rows. A clean flit whose turn it is, at an output that
has carried none in this cycle, leaves its buffer and arrives behind the output, changed in nothing but its virtual channel
(and the cycle of its arrival, which the model keeps beside it, log 49); the off state of a buffer, raised at 10 flits and
lowered at 6 (28 and 20 on the graft), reaches the sender as the receiver holds it; FLIT_EXPIRY leaves every buffer of every
router a tail of what it held, with no expired flit in front. -/
def Obligations.FabricRows : Prop :=
  (∀ (w t : Nat), w ≤ t → t < w + 4 → (expired t (w % 4) = true ↔ w + 2 ≤ t)) ∧
  ((∀ (p : PkgId) (r : RtrIx) (port : Port) (vn : Fin 4) (vc : Fin 2) (f : Flit) (m : Move) (r' key : Nat) (g : Bool) (s : State),
      (s.pkg p).live = true →
      (s.pkg p).pickSrc (s.env p) r (Port.num port) vn vc = { stage := 0, port := Port.num port, vn := vn, x := vc } →
      (∀ l side, (s.pkg p).hop r (Port.num port) ≠ .edge l side) →
      (s.pkg p).srcHead r { stage := 0, port := Port.num port, vn := vn, x := vc } = some f →
      expired (s.pkg p).tk.tickNum f.age = false → f.isHead = true →
      (s.pkg p).moveOf (s.env p) r { stage := 0, port := Port.num port, vn := vn, x := vc } = some m →
      (s.pkg p).grants (s.env p) r { stage := 0, port := Port.num port, vn := vn, x := vc } m = true →
      (s.pkg p).portsUsed (s.env p) r ((s.pkg p).candidates r (Port.num port) vn vc) = false →
      m.dest = .buf r' key g → r' ≠ r →
      Answers (.routerForward p r port vn vc .clean .clean) s fun t => t.now = s.now ∧
        ((t.pkg p).rtr r').buf.get [] key = ((s.pkg p).rtr r').buf.get [] key ++ [{ f.setVc m.vc with arrived := s.now }] ∧
        ((t.pkg p).rtr r).buf.get [] (vkey (Port.num port) vn vc) =
          (((s.pkg p).rtr r).buf.get [] (vkey (Port.num port) vn vc)).drop 1 ∧
        (∀ p' k' a', t.leafByte p' k' a' = s.leafByte p' k' a') ∧ ∀ p' h o, t.heartByte p' h o = s.heartByte p' h o) ∧
    (∀ (p : PkgId) (r : RtrIx) (port : Port) (vn : Fin 4) (vc : Fin 2) (s : State), (s.pkg p).live = true →
      Answers (.onoffSignal p r port vn vc) s fun t =>
        ((t.pkg p).rtr r).seenOff.get false (vkey (Port.num port) vn vc) =
          ((s.pkg p).rtr r).off.get false (vkey (Port.num port) vn vc) ∧
        ((t.pkg p).rtr r).buf = ((s.pkg p).rtr r).buf) ∧
    (∀ (prev : Bool) (n : Nat), (10 ≤ n → bufOff false prev n = true) ∧ (n ≤ 6 → bufOff false prev n = false) ∧
      (6 < n → n < 10 → bufOff false prev n = prev) ∧ (28 ≤ n → bufOff true prev n = true) ∧
      (n ≤ 20 → bufOff true prev n = false) ∧ (20 < n → n < 28 → bufOff true prev n = prev)) ∧
    (∀ (p : PkgId) (s : State), (s.pkg p).live = true →
      Answers (.flitExpiry p) s fun t => ∀ r key,
        ((t.pkg p).rtr r).buf.get [] key <:+ ((s.pkg p).rtr r).buf.get [] key ∧
        ∀ f ∈ (((t.pkg p).rtr r).buf.get [] key).head?, expired (s.pkg p).tk.tickNum f.age = false))

/-- DERIVED (rests on R24, R180, R182, R187, R252, R254, R264): a program's push that no check refuses waits as the queue's
last entry; one to a full queue is refused and counted, wherever it would go (the model's choice, log 46); a packet injected
for a new request, in a cycle in which the port has carried no flit and the queue taken no push, leaves the queue, gets its
destination's ALIVE, stands in the request record, and its first flit enters the router's injection buffer, the others
following at later injections; its destination's ALIVE counter is kept for 8 tick periods from then. -/
def Obligations.PushAndInject : Prop :=
  (∀ (p : PkgId) (k : BoleIx) (q : Push) (s : State), (s.pkg p).live = true → (s.pkg p).up k = true →
    ((s.pkg p).bole k).running = true → q.op.vn = 0 → (q.op = .write → 1 ≤ q.granules ∧ q.granules ≤ 32) →
    (((s.pkg p).bole k).ni.q.get [] 0).length < 32 → (s.pkg p).pushFault k q q.granules = none →
    Answers (.injectionPush p k q) s fun t => ((t.pkg p).bole k).ni.q.get [] 0 = ((s.pkg p).bole k).ni.q.get [] 0 ++
      [{ what := .req q q.granules, op := ((s.pkg p).bole k).ni.nextOp, pushedAt := s.now }] ∧
      ∀ p' k' a', t.leafByte p' k' a' = s.leafByte p' k' a') ∧
  (∀ (p : PkgId) (k : BoleIx) (q : Push) (s : State), (s.pkg p).live = true → (s.pkg p).up k = true →
    ((s.pkg p).bole k).running = true → 32 ≤ (((s.pkg p).bole k).ni.q.get [] q.op.vn).length →
    Answers (.injectionPush p k q) s fun t =>
      t = s.setPkg p (((s.pkg p).updNi k fun n => n.pushing q.op.vn s.now).count k cINJREFUSED 1)) ∧
  (∀ (p : PkgId) (k : BoleIx) (q : Push) (g : Nat) (x : InjEntry) (rest : List InjEntry) (s : State), (s.pkg p).live = true →
    (s.pkg p).up k = true → (s.pkg p).injUsed k 0 s.now = false →
    ((s.pkg p).niAdvance k s.now).injPick (s.env p) k = some 0 →
    (((s.pkg p).bole k).ni.inj.get [] 0) = [] → ((s.pkg p).bole k).ni.dueReq (s.pkg p).tk.tickNum = none →
    ((s.pkg p).bole k).ni.q.get [] 0 = x :: rest → x.what = .req q g →
    Answers (.packetInject p k 0) s fun t =>
      let a := match ((s.pkg p).bole k).ni.aliveEnt q.dstX q.dstY with | some x => x.next | none => 0
      let r := (s.pkg p).rtrOf k
      let fs := ((s.pkg p).buildReq (s.env p) k q g a).1
      (((t.pkg p).bole k).ni.q.get [] 0).length = rest.length ∧
      ((t.pkg p).bole k).ni.reqs = ((s.pkg p).bole k).ni.reqs ++
        [{ dstX := q.dstX, dstY := q.dstY, alive := a, q := q, granules := g, op := x.op, window := (s.pkg p).tk.tickNum,
           kept := if q.op = .writeShort then some (payloadOf fs, pktPoison fs) else none }] ∧
      (∀ y ∈ ((t.pkg p).bole k).ni.alive, y.dstX = q.dstX → y.dstY = q.dstY →
        y.freeAt = s.now + 8 * (1500 * (s.pkg p).tk.period)) ∧
      ((t.pkg p).rtr r).buf.get [] (vkey 4 0 0) = ((s.pkg p).rtr r).buf.get [] (vkey 4 0 0) ++
        (fs.take 1).map (fun f => { f with arrived := s.now }) ∧
      ((t.pkg p).bole k).ni.inj.get [] 0 = fs.drop 1)

/-! ### Chapters 07 and 10: requests, answers, resends, duplicates -/

/-- DERIVED (rests on R163, R166, R167, R168, R249, R259, R334; the first-in-order check is Table 7.5's, R164, R166 to R169,
R260, Table 7.4; a NaN sum of ADD_F32 is the free value of log 5): a sound request of a class that is carried out and that
passes every check. A WRITE stores its payload at LOCAL, a WRITE_SHORT its COUNT bytes, and a SIGNAL adds INC to its
counter; each is answered by an ACK, changes no other byte of any memory, and is a duplicate from then on. A READ and an
ATOMIC that are carried out. The READ returns the granules that stand at LOCAL, or NI_ID, and changes no memory; the ATOMIC
stores the new value of Table 7.4 over the old one, which it returns when FETCH is 1, zero-extended to 8 bytes; with FETCH 0
it is answered by an ACK. Both are duplicates from then on. -/
def Obligations.RequestsAreCarriedOut : Prop :=
  (∀ (p : PkgId) (k : BoleIx) (op : PktOp) (h : Head) (fs : List Flit) (n : Ni) (s : State), s.memWf →
      s.sound p k op h fs n → (s.pkg p).check k { h := h, fs := fs, p := payloadOf fs } = (0, 0) → n.takes h →
      (op = .write → ∀ c : MemCond, Answers (.write p k c) s fun t => s.stored t p k h.loc (payloadOf fs) ∧ s.answered t p k h .ack 0 1 [] [] ∧
        ((t.pkg p).bole k).ni.classify h = .duplicate) ∧
      (op = .writeShort → Answers (.writeShort p k) s fun t =>
        s.stored t p k h.loc ((payloadOf fs).take (fld (payloadOf fs) 56 1)) ∧ s.answered t p k h .ack 0 1 [] [] ∧
        ((t.pkg p).bole k).ni.classify h = .duplicate) ∧
      (op = .signal → Answers (.signal p k) s fun t => s.sameMemory t ∧ s.answered t p k h .ack 0 1 [] [] ∧
        ((t.pkg p).bole k).coll.ctr.get 0 (fld (payloadOf fs) 0 2) =
          min 4294967295 (((s.pkg p).bole k).coll.ctr.get 0 (fld (payloadOf fs) 0 2) + fld (payloadOf fs) 4 4) ∧
        (∀ j, j ≠ fld (payloadOf fs) 0 2 → ((t.pkg p).bole k).coll.ctr.get 0 j = ((s.pkg p).bole k).coll.ctr.get 0 j) ∧
        ((t.pkg p).bole k).ni.classify h = .duplicate)) ∧
  ((∀ (p : PkgId) (k : BoleIx) (h : Head) (fs : List Flit) (n : Ni) (s : State),
      s.sound p k .read h fs n → (s.pkg p).check k { h := h, fs := fs, p := payloadOf fs } = (0, 0) → n.takes h →
      Answers (.read p k) s fun t => s.sameMemory t ∧ ((t.pkg p).bole k).ni.classify h = .duplicate ∧
        (h.loc ≠ 0x01000000 → ∃ ps, s.answered t p k h .readData (fld (payloadOf fs) 0 4) (fld (payloadOf fs) 4 1 % 32 + 1)
            ((List.range (64 * (fld (payloadOf fs) 4 1 % 32 + 1))).map fun i => s.localByte p k (h.loc + i)) ps) ∧
        (h.loc = 0x01000000 → s.answered t p k h .readData (fld (payloadOf fs) 0 4) 1
          (leBytes 4 (0x10004E49 + 0x10000 * (k % 8) + 0x100000 * (k / 8))) [])) ∧
    (∀ (p : PkgId) (k : BoleIx) (h : Head) (fs : List Flit) (n : Ni) (s : State), s.memWf →
      s.sound p k .atomic h fs n → (s.pkg p).check k { h := h, fs := fs, p := payloadOf fs } = (0, 0) → n.takes h →
      Answers (.atomic p k) s fun t =>
        let r : Req := { h := h, fs := fs, p := payloadOf fs }
        let old := (List.range r.width).map fun i => s.localByte p k (h.loc + i)
        s.stored t p k h.loc (leBytes r.width (r.newValue (leNat old) (Config.atomicNan s.freeCtr).toNat)) ∧
        ((t.pkg p).bole k).ni.classify h = .duplicate ∧
        (fld (payloadOf fs) 1 1 % 2 = 1 → ∃ ps,
          s.answered t p k h .atomicResult (fld (payloadOf fs) 4 4) 1 (leBytes 8 (leNat old)) ps) ∧
        (fld (payloadOf fs) 1 1 % 2 = 0 → s.answered t p k h .ack 0 1 [] [])))

/-- DERIVED (rests on Table 7.4): the new value of every AOP but ADD_F32, for any old value of its width and any operands. -/
def Obligations.AtomicNewValues : Prop :=
  ∀ (r : Req) (free : Nat) (w : BitVec 32) (d : BitVec 64),
    let a := fld r.p 8 8
    let b := fld r.p 16 8
    (r.aop = 0 → r.newValue w.toNat free = (w + BitVec.ofNat 32 a).toNat) ∧
    (r.aop = 1 → r.newValue d.toNat free = (d + BitVec.ofNat 64 a).toNat) ∧
    (r.aop = 3 → r.newValue d.toNat free = (d &&& BitVec.ofNat 64 a).toNat) ∧
    (r.aop = 4 → r.newValue d.toNat free = (d ||| BitVec.ofNat 64 a).toNat) ∧
    (r.aop = 5 → r.newValue d.toNat free = (d ^^^ BitVec.ofNat 64 a).toNat) ∧
    (r.aop = 6 → (BitVec.ofNat 32 (r.newValue w.toNat free)).toInt = max w.toInt (BitVec.ofNat 32 a).toInt) ∧
    (r.aop = 7 → (BitVec.ofNat 32 (r.newValue w.toNat free)).toInt = min w.toInt (BitVec.ofNat 32 a).toInt) ∧
    (r.aop = 8 → r.newValue d.toNat free = a) ∧
    (r.aop = 9 → r.newValue d.toNat free = if d.toNat = a then b else d.toNat)

/-- DERIVED (rests on R165, R166, R249, R257, R259 to R261, R263, R265): requests that are not carried out. No byte of any
memory and no counter of triggered operations changes. A failing check is answered by a NACK with the first failing status;
a poisoned request by status 3 and with no mark in the suppression table; a malformed packet, a wrong ECRC, a stale request,
an ordered one behind a gap, one that finds the table full, and any request in quarantine are counted and get no answer; a
duplicate is counted and answered again. -/
def Obligations.RefusedRequestsChangeNothing : Prop :=
  ∀ (p : PkgId) (k : BoleIx) (op : PktOp) (m : MemCond) (c : Instr) (h : Head) (fs : List Flit) (n : Ni) (s : State),
    requestCmd p k m op = some c → s.gathered p k op h fs n →
    let r : Req := { h := h, fs := fs, p := payloadOf fs }
    let same (t : State) := s.sameMemory t ∧ ∀ j, ((t.pkg p).bole k).coll.ctr.get 0 j = ((s.pkg p).bole k).coll.ctr.get 0 j
    let quiet (t : State) := same t ∧ ((t.pkg p).bole k).ni.q.get [] 1 = ((s.pkg p).bole k).ni.q.get [] 1 ∧
      ((t.pkg p).bole k).ni.dedup = ((s.pkg p).bole k).ni.dedup
    (n.quarantine ≠ none → Answers c s fun t => quiet t ∧ s.counted t p k cQUARANTINE 1) ∧
    (n.aborting = false → n.quarantine = none →
      (malformed op fs = true → Answers c s fun t => quiet t ∧ ((t.pkg p).bole k).ni.badPktV = true) ∧
      (malformed op fs = false →
        (pktPoison fs = false → ecrcGood fs = false → Answers c s fun t => quiet t ∧ s.counted t p k cECRC 1) ∧
        (∀ a, pktPoison fs = true → (s.pkg p).check k r = (3, a) → Answers c s fun t => same t ∧
          ((t.pkg p).bole k).ni.dedup = ((s.pkg p).bole k).ni.dedup ∧
          s.answered t p k h .nack 0 1 ([3, 0, 0, 0] ++ leBytes 4 a) []) ∧
        (∀ st a, pktPoison fs = true ∨ ecrcGood fs = true → (s.pkg p).check k r = (st, a) → st ≠ 3 →
          (st ≠ 0 → n.takes h → Answers c s fun t => same t ∧
            s.answered t p k h .nack 0 1 (leBytes 1 st ++ [0, 0, 0] ++ leBytes 4 a) [] ∧
            ((t.pkg p).bole k).ni.classify h = .duplicate) ∧
          (n.classify h = .duplicate → Answers c s fun t => same t ∧ s.counted t p k cDUP 1 ∧
            (((t.pkg p).bole k).ni.q.get [] 1).length = (((s.pkg p).bole k).ni.q.get [] 1).length + 1) ∧
          (n.classify h = .stale → Answers c s fun t => quiet t ∧ s.counted t p k cSTALE 1) ∧
          (n.classify h = .full → Answers c s fun t => quiet t ∧ s.counted t p k cDEDUPFULL 1) ∧
          (∀ d, n.dedupOf h.srcX h.srcY h.tag = some d → n.classify h = .late ∨ n.classify h = .ahead → h.ord = true →
            d.ordOk h.alive = false → Answers c s fun t => quiet t ∧ s.counted t p k cGAPDROP 1))))

/-- DERIVED (rests on R259, R261, Table 10.4, R269): at most once. The class of an ALIVE follows from its distance to H; a
request that has been carried out is a duplicate afterwards, and stays a duplicate or becomes stale when a later or late
request of its source is carried out. -/
def Obligations.CarriedOutOnlyOnce : Prop :=
  (∀ (d : Dedup) (a : Nat), d.h < 65536 → a < 65536 →
    (a = d.h → d.classOf a = .duplicate) ∧
    (∀ j, 1 ≤ j → j ≤ 64 → a = (d.h + j) % 65536 → d.classOf a = .ahead) ∧
    (∀ j, 65 ≤ j → j ≤ 32767 → a = (d.h + j) % 65536 → d.classOf a = .reset) ∧
    (∀ j, 32768 ≤ j → j ≤ 65472 → a = (d.h + j) % 65536 → d.classOf a = .stale) ∧
    (∀ j, 1 ≤ j → j ≤ 63 → d.h = (a + j) % 65536 → d.classOf a = if d.done.getLsbD j then .duplicate else .late)) ∧
  (∀ (n : Ni) (h : Head) (st tick : Nat) (v : Option Nat), n.takes h ∨ (n.classify h = .late ∨ n.classify h = .ahead) →
    (n.mark h st tick v).classify h = .duplicate) ∧
  (∀ (n : Ni) (h h' : Head) (st tick : Nat) (v : Option Nat), h.alive < 65536 → h'.alive < 65536 →
    h'.srcX = h.srcX → h'.srcY = h.srcY → h'.tag = h.tag → n.classify h = .duplicate →
    (∀ d, n.dedupOf h.srcX h.srcY h.tag = some d → d.h < 65536 ∧ d.done.getLsbD 0 = true) →
    n.classify h' = .late ∨ n.classify h' = .ahead →
    (n.mark h' st tick v).classify h = .duplicate ∨ (n.mark h' st tick v).classify h = .stale) ∧
  ∀ (n : Ni) (h h' : Head) (st tick : Nat) (v : Option Nat), n.classify h = .duplicate →
    (h'.srcX ≠ h.srcX ∨ h'.srcY ≠ h.srcY ∨ h'.tag ≠ h.tag) → (n.mark h' st tick v).classify h = .duplicate

/-- DERIVED (rests on R164, R170, R184, R250, R255 to R257, R254, R256, R264, R265): answers at the requester. A good one ends
its request, counts towards its operation, which is done when it awaited nothing else, and writes what it brings: READ_DATA
its payload, ATOMIC_RESULT 8 bytes, the others nothing; a NACK of status 1, 2 or 4 faults with that status. An answer with
poison, a wrong ECRC or an undefined status writes nothing and makes the resend due; the second one to a resent request ends
every request to that destination. An answer to no request is counted. What the NI's ticks do. The resend of each request
falls due at the second tick after its own first injection, and the request ends at the second tick after that: every request
to its destination goes, the bole faults, and the ALIVE counter moves on by 64. A reservation goes at the third tick after its
window, an ALIVE entry once 8 tick periods have passed since its last use with nothing unanswered, and quarantine ends at its
tick with both tables empty. -/
def Obligations.AnswersAndRequesterTicks : Prop :=
  (∀ (p : PkgId) (k : BoleIx) (op : PktOp) (c : Instr) (h : Head) (fs : List Flit) (n : Ni) (s : State), s.memWf →
      answerCmd p k op = some c → s.gathered p k op h fs n → malformed op fs = false →
      (∀ r, (((s.pkg p).bole k).ni.reqsTo h.srcX h.srcY).find? (fun r => r.alive == h.alive) = some r →
        (pktPoison fs = false → ecrcGood fs = true →
          (op ≠ .nack → Answers c s fun t =>
            ((t.pkg p).bole k).ni.reqs = ((s.pkg p).bole k).ni.reqs.filter (fun x => decide (x ≠ r)) ∧
            (∀ o ∈ ((s.pkg p).bole k).ni.ops, o.id = r.op → o.unsent = 0 → o.awaiting = 1 → o.faulted = false →
              r.op ∈ ((t.pkg p).bole k).ni.doneOps) ∧
            s.stored t p k h.loc (if op = .readData then payloadOf fs else if op = .atomicResult then (payloadOf fs).take 8 else [])) ∧
          (op = .nack → fld (payloadOf fs) 0 1 = 1 ∨ fld (payloadOf fs) 0 1 = 2 ∨ fld (payloadOf fs) 0 1 = 4 →
            Answers c s fun t => s.sameMemory t ∧
              ((t.pkg p).bole k).ni.reqs = ((s.pkg p).bole k).ni.reqs.filter (fun x => decide (x ≠ r)) ∧
              ((t.pkg p).bole k).cause.leaf &&& 1 = 1 ∧
              (((s.pkg p).bole k).cause.leaf &&& 1 = 0 → ((t.pkg p).bole k).cause.fcode =
                (if fld (payloadOf fs) 0 1 = 1 then 1 else if fld (payloadOf fs) 0 1 = 2 then 11 else 12)))) ∧
        (pktPoison fs = true ∨ ecrcGood fs = false ∨ (op = .nack ∧ (fld (payloadOf fs) 0 1 = 0 ∨ fld (payloadOf fs) 0 1 = 3 ∨
            5 ≤ fld (payloadOf fs) 0 1)) →
          (r.resent = false → Answers c s fun t => s.sameMemory t ∧
            ∃ x ∈ ((t.pkg p).bole k).ni.reqs, x.dstX = r.dstX ∧ x.dstY = r.dstY ∧ x.alive = r.alive ∧ x.due ≠ none ∧
              x.bad = r.bad + 1) ∧
          (r.resent = true → 1 ≤ r.bad → Answers c s fun t => s.sameMemory t ∧
            (∀ x ∈ ((t.pkg p).bole k).ni.reqs, x.dstX = r.dstX → x.dstY ≠ r.dstY) ∧
            ((t.pkg p).bole k).cause.leaf &&& 1 = 1))) ∧
      ((((s.pkg p).bole k).ni.reqsTo h.srcX h.srcY).find? (fun r => r.alive == h.alive) = none →
        Answers c s fun t => s.sameMemory t ∧ ((t.pkg p).bole k).ni.reqs = ((s.pkg p).bole k).ni.reqs ∧
          s.counted t p k cDUPANSWER 1)) ∧
  ((∀ (p : PkgId) (k : BoleIx) (x y : Nat) (s : State), s.boleUp p k →
      Answers (.resendDue p k x y) s fun t => ((t.pkg p).bole k).ni.reqs = ((s.pkg p).bole k).ni.reqs.map fun r =>
        if r.dstX = x ∧ r.dstY = y ∧ r.window + 2 ≤ (s.pkg p).tk.tickNum ∧ r.resent = false ∧ r.due = none then
          { r with due := some (r.window + 2) } else r) ∧
    (∀ (p : PkgId) (k : BoleIx) (x y w : Nat) (r : ReqRec) (s : State), s.boleUp p k →
      r ∈ ((s.pkg p).bole k).ni.reqs → r.dstX = x → r.dstY = y → r.due = some w → w + 2 ≤ (s.pkg p).tk.tickNum →
      Answers (.requestUnanswered p k x y) s fun t =>
        ((t.pkg p).bole k).ni.reqs = ((s.pkg p).bole k).ni.reqs.filter (fun q => !(q.dstX == x && q.dstY == y)) ∧
        ((t.pkg p).bole k).cause.leaf &&& 1 = 1 ∧
        ((t.pkg p).bole k).ni.alive = ((s.pkg p).bole k).ni.alive.map (fun a =>
          if a.dstX = x ∧ a.dstY = y then { a with next := (a.next + 64) % 65536 } else a) ∧
        s.counted t p k cNOANSWER (((s.pkg p).bole k).ni.reqsTo x y).length ∧
        (r.bad = 0 → ((s.pkg p).bole k).ni.reqs = [r] → ((s.pkg p).bole k).cause.leaf &&& 1 = 0 →
          ((t.pkg p).bole k).cause.fcode = 8) ∧
        (0 < r.bad → ((s.pkg p).bole k).ni.reqs = [r] → ((s.pkg p).bole k).cause.leaf &&& 1 = 0 →
          ((t.pkg p).bole k).cause.fcode = 9)) ∧
    (∀ (p : PkgId) (k : BoleIx) (s : State), s.boleUp p k →
      Answers (.reassemblyRelease p k) s fun t => ((t.pkg p).bole k).ni.resv =
        ((s.pkg p).bole k).ni.resv.filter (fun r => decide ((s.pkg p).tk.tickNum < r.window + 3))) ∧
    (∀ (p : PkgId) (k : BoleIx) (x y : Nat) (s : State), s.boleUp p k →
      Answers (.aliveEntryFree p k x y) s fun t => ∀ a, a ∈ ((t.pkg p).bole k).ni.alive ↔ a ∈ ((s.pkg p).bole k).ni.alive ∧
        ¬ (a.dstX = x ∧ a.dstY = y ∧ a.freeAt ≤ s.now ∧
          ∀ r ∈ ((s.pkg p).bole k).ni.reqs, r.dstX = x → r.dstY ≠ y)) ∧
    (∀ (p : PkgId) (k : BoleIx) (w : Nat) (s : State), s.boleUp p k → ((s.pkg p).bole k).ni.quarantine = some w →
      (w ≤ (s.pkg p).tk.tickNum → Answers (.quarantineEnd p k) s fun t => ((t.pkg p).bole k).ni.quarantine = none ∧
        ((t.pkg p).bole k).ni.dedup = [] ∧ ((t.pkg p).bole k).ni.alive = []) ∧
      ((s.pkg p).tk.tickNum < w → Answers (.quarantineEnd p k) s fun t =>
        ((t.pkg p).bole k).ni.quarantine = some w ∧ ((t.pkg p).bole k).ni.dedup = ((s.pkg p).bole k).ni.dedup)))

/-- STATED (R262): DEDUP_EVICT at tick T takes away every entry with T - LAST of 5 or more, and no other. -/
def Obligations.SuppressionEntriesAreEvicted : Prop :=
  ∀ (p : PkgId) (k : BoleIx) (s : State), s.boleUp p k →
    Answers (.dedupEvict p k) s fun t => ∀ d, d ∈ ((t.pkg p).bole k).ni.dedup ↔
      d ∈ ((s.pkg p).bole k).ni.dedup ∧ ¬ (5 : Int) ≤ ((s.pkg p).tk.tickNum : Int) - (d.last : Int)

/-! ### Chapter 08: scheduled transport -/

/-- DERIVED (rests on R192, Table 8.1, R40, R190, R288, Table 2.4): flit i of a transfer has the i-th slot cycle of its
entry, for every START, and there are F(LEN, PACE) of them, all in reserved cycles. A reserved cycle carries no
dynamic-plane flit. In a cycle that a running injection entry reserves, or a guard cycle of a router with an active bank,
the NI injects no packet flit, and in one that a running entry reserves at an output port, or a guard cycle of it, the
router sends no packet flit there. -/
def Obligations.ReservedCycles : Prop :=
  (∀ x : SEntry, (x.pace = 0 → (List.range x.len).filterMap (fun i => x.slotIx (x.start + i)) = List.range x.len) ∧
      (x.pace = 1 → x.len % 4 = 0 →
        (List.range x.len).filterMap (fun i => x.slotIx (x.start + i)) = List.range (3 * x.len / 4)) ∧
      (x.pace = 2 → x.len % 24 = 0 →
        (List.range x.len).filterMap (fun i => x.slotIx (x.start + i)) = List.range (23 * x.len / 24)) ∧
      ∀ c, (x.slotIx c).isSome = true → x.reserves c = true) ∧
  ((∀ (p : PkgId) (k : BoleIx) (vn : Fin 4) (s : State), (s.pkg p).injUsed k vn s.now = false →
      let c := (s.pkg p).cyc (s.env p)
      (((s.pkg p).bole k).sched.active ≠ 0 ∧ inGuard 4 c (1500 * (s.pkg p).tk.period) = true) ∨
        (∃ x ∈ ((s.pkg p).bole k).sched.running (s.pkg p).tk.tickNum, x.2.inp = 4 ∧ x.2.reserves c = true ∧
          (linkOf k x.2.out = none ∨ ∃ l, linkOf k x.2.out = some l ∧ (s.pkg p).linkIdle (s.env p) l = false)) →
      Answers (.packetInject p k vn) s fun t => (t.pkg p).rtrs = (s.pkg p).rtrs ∧
        ((t.pkg p).bole k).ni.inj = ((s.pkg p).bole k).ni.inj) ∧
    (∀ (P : Package) (e : Env) (r : Nat) (sr : Src) (m : Move) (k : Nat), P.boleAt r = some k →
      ((∃ x ∈ P.entriesAt e k m.port, x.reserves (P.cyc e) = true) ∨
        ((P.bole k).sched.active ≠ 0 ∧ inGuard (P.guard e k m.port) (P.cyc e) (1500 * P.tk.period) = true)) →
      P.grants e r sr m = false))

/-- DERIVED (rests on R195, R209 to R211, R474): loading a bank. A write to an entry of the active bank, or to its header,
changes nothing but ACTIVE_WR; any other puts the entry at IDX, which moves on by one, or the header's fields; MODE is
written only while no bank is active; STOP takes effect at the tick; the check of an ARM sets ARMED, BADTABLE with the first
bad index, or LATE_ARM; at its tick an armed bank for the period in force from then on and for this glade becomes active,
and any other leaves no bank and MISMATCH. -/
def Obligations.BanksAreLoadedArmedAndSwitched : Prop :=
  (∀ (p : PkgId) (k : BoleIx) (v : BitVec 64) (s : State), s.boleUp p k →
    Answers (.niSchedBankWrite p k v) s fun t =>
      ((t.pkg p).bole k).sched = if bankHolds ((s.pkg p).bole k).sched.active ((s.pkg p).bole k).sched.idx then
          { ((s.pkg p).bole k).sched with activeWr := true }
        else { ((s.pkg p).bole k).sched with
                 entries := ((s.pkg p).bole k).sched.entries.set ((s.pkg p).bole k).sched.idx v
                 idx := (((s.pkg p).bole k).sched.idx + 1) % 8192 }) ∧
  (∀ (p : PkgId) (k : BoleIx) (second : Bool) (v : BitVec 64) (s : State), s.boleUp p k →
    (((s.pkg p).bole k).sched.active = 0 ∨ (second = true ∧ ((s.pkg p).bole k).sched.active = 1) ∨
      (second = false ∧ ((s.pkg p).bole k).sched.active = 2) →
      Answers (.niSchedHdrWrite p k second v) s fun t =>
        (if second then ((t.pkg p).bole k).sched.hdrB else ((t.pkg p).bole k).sched.hdrA) =
          { periodUs := v.toNat % 128, m := v.toNat / 256 % 32, entries := v.toNat / 65536 % 16384,
            tag := v.toNat / 4294967296 % 32768 } ∧
        ((t.pkg p).bole k).sched.activeWr = ((s.pkg p).bole k).sched.activeWr) ∧
    ((second = true ∧ ((s.pkg p).bole k).sched.active = 2) ∨
      (second = false ∧ (((s.pkg p).bole k).sched.active = 1 ∨ ((s.pkg p).bole k).sched.active = 3)) →
      Answers (.niSchedHdrWrite p k second v) s fun t =>
        ((t.pkg p).bole k).sched = { ((s.pkg p).bole k).sched with activeWr := true })) ∧
  (∀ (p : PkgId) (k : BoleIx) (single : Bool) (s : State), s.boleUp p k →
    Answers (.schedModeWrite p k single) s fun t =>
      ((t.pkg p).bole k).sched = { ((s.pkg p).bole k).sched with
        single := if ((s.pkg p).bole k).sched.active = 0 then single else ((s.pkg p).bole k).sched.single }) ∧
  (∀ (p : PkgId) (k : BoleIx) (s : State), s.boleUp p k →
    Answers (.schedArm p k) s fun t =>
      ((t.pkg p).bole k).sched = { ((s.pkg p).bole k).sched with checking := some (s.pkg p).tk.tickNum }) ∧
  (∀ (p : PkgId) (k : BoleIx) (s : State), s.boleUp p k →
    Answers (.schedStop p k) s fun t => ((t.pkg p).bole k).sched = { ((s.pkg p).bole k).sched with stopping := true }) ∧
  (∀ (p : PkgId) (k : BoleIx) (spent : Nat) (s : State), (s.pkg p).live = true → (s.pkg p).ready = true →
    (s.stand (s.leadOf (p / 64))).replant = none → (s.stand (s.leadOf (p / 64))).waiting = [] →
    ((s.pkg p).bole k).sched.stopping = true →
    Answers (.tick p spent) s fun t => ((t.pkg p).bole k).sched.active = 0 ∧ ((t.pkg p).bole k).sched.stopping = false) ∧
  (∀ (p : PkgId) (k : BoleIx) (w : Nat) (s : State), s.boleUp p k → ((s.pkg p).bole k).sched.checking = some w →
    Answers (.schedBankCheck p k) s fun t => ((t.pkg p).bole k).sched.checking = none ∧
      (((t.pkg p).bole k).sched.armed = true ↔
        (s.pkg p).bankBad (s.env p) k = none ∧ w + 2 ≤ ((s.pkg p).bole k).sched.switchTick) ∧
      (∀ i, (s.pkg p).bankBad (s.env p) k = some i →
        ((t.pkg p).bole k).sched.badTable = true ∧ ((t.pkg p).bole k).sched.badIdx = i) ∧
      (((s.pkg p).bole k).sched.switchTick < w + 2 → ((t.pkg p).bole k).sched.lateArm = true) ∧
      ((t.pkg p).bole k).sched.active = ((s.pkg p).bole k).sched.active) ∧
  (∀ (p : PkgId) (k : BoleIx) (s : State), (s.pkg p).live = true → ((s.pkg p).bole k).sched.armed = true →
    ((s.pkg p).bole k).sched.switchTick ≤ (s.pkg p).tk.tickNum →
    let S := ((s.pkg p).bole k).sched
    ((s.pkg p).tk.lost = false → (S.hdr S.standby).periodUs = (s.pkg p).tk.periodNow → (S.hdr S.standby).tag = (s.pkg p).tagOf k →
      Answers (.schedBankSwitch p k) s fun t => ((t.pkg p).bole k).sched.active = S.standby ∧
        ((t.pkg p).bole k).sched.armed = false) ∧
    ((s.pkg p).tk.lost = false →
      (S.hdr S.standby).periodUs ≠ (s.pkg p).tk.periodNow ∨ (S.hdr S.standby).tag ≠ (s.pkg p).tagOf k →
      Answers (.schedBankSwitch p k) s fun t => ((t.pkg p).bole k).sched.active = 0 ∧
        ((t.pkg p).bole k).sched.armed = false ∧ ((t.pkg p).bole k).sched.mismatch = true)) ∧
  (∀ (p : PkgId) (k : BoleIx) (s : State), (s.pkg p).live = true → ((s.pkg p).bole k).sched.armed = false →
    Answers (.schedBankSwitch p k) s fun t => ((t.pkg p).bole k).sched = ((s.pkg p).bole k).sched)

/-- DERIVED (rests on R192, R197, R199, R203, Table 8.4, R201, R204, R205, R207, R215, R245, R248, R334, R491, Tables 8.7
and 8.8): the source's side of a stream. NI_SREADY adds a credit, and is refused and counted at 255. The read-ahead takes a
credit and the payload that stands in the occurrence's buffer, or, with no credit, sends zeros with VOID and counts the
occurrence. Slot i sends flit i, which reaches the next router after the hop's delay, a live router of a skipped row on the
way or not, or the link's frames; on the way a clean flit moves from landing buffer to landing buffer unchanged. The
destination's side of a stream. A flit of its stream and glade is written at 64 times its index in the occurrence's buffer,
poison and all; a VOID one, or one whose header could not be corrected, is not; a foreign flit is discarded and counted. The
record goes to FLAG in the layout of Table 8.7 with the status of Table 8.8, LINK taken from the links and the windows
themselves, or adds 1 to its counter, and ends the occurrence; the source's record tells what was sent. -/
def Obligations.StreamsAreSentLandedAndRecorded : Prop :=
  ((∀ (p : PkgId) (k : BoleIx) (st : Fin 1024) (s : State), s.boleUp p k →
      (((s.pkg p).bole k).sched.stream st).eject = false →
      ((((s.pkg p).bole k).sched.stream st).credit < 255 → Answers (.niSreadyWrite p k st) s fun t =>
        ((t.pkg p).bole k).sched.stream st =
          { ((s.pkg p).bole k).sched.stream st with credit := (((s.pkg p).bole k).sched.stream st).credit + 1 }) ∧
      (255 ≤ (((s.pkg p).bole k).sched.stream st).credit → Answers (.niSreadyWrite p k st) s fun t =>
        ((t.pkg p).bole k).sched = ((s.pkg p).bole k).sched ∧ s.counted t p k cINJREFUSED 1)) ∧
    (∀ (p : PkgId) (k : BoleIx) (i : Fin 8192) (x : SEntry) (w : Nat) (s : State), s.boleUp p k →
      (s.pkg p).aheadOf (s.env p) k i = some (x, w) →
      let d := ((s.pkg p).bole k).sched.stream x.stream
      let n := (s.pkg p).occNo k x.stream w
      d.eject = false → 0 < d.flits →
      (1 ≤ d.credit → Answers (.streamReadahead p k i) s fun t => s.sameMemory t ∧ ∃ o,
        ((t.pkg p).bole k).sched.occAt x.stream w = some o ∧ o.window = w ∧ o.k = n ∧ o.seen = 0 ∧ o.sawVoid = false ∧
        o.data.map (fun y => y.1) = (List.range d.flits).map (fun j =>
          (List.range 64).map fun b => s.leafByte p k (d.bufAt n + 64 * j + b)) ∧
        (((t.pkg p).bole k).sched.stream x.stream).credit = d.credit - 1 ∧
        (w = (s.pkg p).tk.tickNum → ((t.pkg p).bole k).sched.occNum.get 0 x.stream = n + 1)) ∧
      (d.credit = 0 → Answers (.streamReadahead p k i) s fun t => s.sameMemory t ∧ s.counted t p k cSCHEDLATE 1 ∧ ∃ o,
        ((t.pkg p).bole k).sched.occAt x.stream w = some o ∧ o.window = w ∧ o.k = n ∧ o.seen = 0 ∧ o.sawVoid = true ∧
        o.data = List.replicate d.flits (List.replicate 64 0, false) ∧
        (w = (s.pkg p).tk.tickNum → ((t.pkg p).bole k).sched.occNum.get 0 x.stream = n + 1))) ∧
    (∀ (p : PkgId) (k : BoleIx) (i : Fin 8192) (ev : HopEvent) (x : SEntry) (o : Occ) (n : Nat) (bs : List Byte) (bad : Bool)
      (s : State), s.boleUp p k → (s.pkg p).runningEntry k i = some x → (s.pkg p).entryUsed s.now k i = false →
      x.slotIx ((s.pkg p).cyc (s.env p)) = some n → x.out ≠ 4 → x.inp = 4 →
      ((s.pkg p).bole k).sched.occAt x.stream (s.pkg p).tk.tickNum = some o → o.window = (s.pkg p).tk.tickNum →
      o.d.eject = false → o.seen ≤ n → o.data[n]? = some (bs, bad) →
      let f : SchedFlit := { stream := x.stream, idx := n, poison := bad, isVoid := o.sawVoid, win2 := o.window % 4,
                             tag := (s.pkg p).tagOf k, data := bs }
      let sent (t : State) := ((t.pkg p).bole k).sched.occAt x.stream (s.pkg p).tk.tickNum =
        some { o with seen := n + 1, landed := o.landed + 1 } ∧ s.sameMemory t
      (∀ r q d via, linkOf k x.out = none → (s.pkg p).schedHop k x.out = some (r, q, d, via) →
        Answers (.scheduledFlitSend p k i ev .clean) s fun t => sent t ∧
          ((t.pkg p).rtr r).landing.get [] q = ((s.pkg p).rtr r).landing.get [] q ++ [(s.now + d, f.resent)]) ∧
      (∀ l, linkOf k x.out = some l → (s.pkg p).linkIdle (s.env p) l = false → f.tag = (s.pkg p).comm.owner.get 0 l →
        ((s.pkg p).link l).train = .active →
        Answers (.scheduledFlitSend p k i ev .clean) s fun t => sent t ∧
          ((t.pkg p).link l).asm = ((s.pkg p).link l).asm ++ linkSched f)) ∧
    (∀ (p : PkgId) (k : BoleIx) (i : Fin 8192) (x : SEntry) (f : SchedFlit) (n r q d : Nat) (via : Option Nat) (s : State),
      (s.pkg p).live = true → (s.pkg p).runningEntry k i = some x → (s.pkg p).entryUsed s.now k i = false →
      x.slotIx ((s.pkg p).cyc (s.env p)) = some n →
      x.out ≠ 4 → x.inp ≠ 4 → linkOf k x.inp = none → linkOf k x.out = none → (s.pkg p).schedHop k x.out = some (r, q, d, via) →
      r ≠ (s.pkg p).rtrOf k → (s.pkg p).landHead s.now k x.inp = some f →
      Answers (.scheduledFlitSend p k i .clean .clean) s fun t =>
        ((t.pkg p).rtr r).landing.get [] q = ((s.pkg p).rtr r).landing.get [] q ++ [(s.now + d, f.resent)] ∧
        ((t.pkg p).rtr ((s.pkg p).rtrOf k)).landing.get [] x.inp =
          (((s.pkg p).rtr ((s.pkg p).rtrOf k)).landing.get [] x.inp).drop 1 ∧ s.sameMemory t)) ∧
  ((∀ (p : PkgId) (k : BoleIx) (i : Fin 8192) (x : SEntry) (read arrive : HopEvent) (f0 f : SchedFlit) (o : Occ) (S : Sched)
      (s : State),
      s.memWf → s.boleUp p k → (s.pkg p).runningEntry k i = some x → (s.pkg p).entryUsed s.now k i = false →
      x.ejects k ((s.pkg p).cyc (s.env p)) = true → (s.pkg p).landHead s.now k x.inp = some f0 → (f0.checked read).bind (fun f => f.checked arrive) = some f →
      (s.pkg p).ejectOcc (s.env p) k x = some (o, S) →
      let a := o.d.bufAt o.k + 64 * f.idx
      let mine := f.tag = (s.pkg p).tagOf k ∧ f.stream = x.stream
      let took (t : State) (landed : Nat) (o' : Occ) := ((t.pkg p).bole k).sched.occAt x.stream (s.pkg p).tk.tickNum = some o' ∧
        o'.seen = o.seen + 1 ∧ o'.landed = o.landed + landed
      (f.hdrBad = false → mine → f.isVoid = false → a + 64 ≤ 0x600000 →
        Answers (.schedFlitEject p k i read arrive) s fun t => s.stored t p k a (padTo 64 f.data) ∧
          (f.poison = true → ((t.pkg p).bole k).leaf.mem.poison.contains (a / 64) = true) ∧
          ∃ o', took t 1 o' ∧ (f.poison = false → o'.poisoned = o.poisoned)) ∧
      (f.hdrBad = false → mine → f.isVoid = true →
        Answers (.schedFlitEject p k i read arrive) s fun t => s.sameMemory t ∧ ∃ o', took t 0 o' ∧ o'.sawVoid = true) ∧
      (f.hdrBad = true → Answers (.schedFlitEject p k i read arrive) s fun t => s.sameMemory t ∧ ∃ o', took t 1 o') ∧
      (f.hdrBad = false → ¬mine →
        Answers (.schedFlitEject p k i read arrive) s fun t => s.sameMemory t ∧ s.counted t p k cSCHEDFOREIGN 1)) ∧
    (∀ (p : PkgId) (k : BoleIx) (st : Fin 1024) (o : Occ) (S : Sched) (s : State), s.memWf → s.boleUp p k →
      (s.pkg p).dueOcc (s.env p) k st = some (o, S) →
      let code := if s.linkEvent p o then 3 else if o.seen < o.d.flits then 4 else if o.sawVoid then 2
        else if o.poisoned then 1 else 0
      (o.d.flagSel = false → o.d.flag ≠ 0 → o.d.flag + 16 ≤ 0x600000 →
        Answers (.streamRecord p k st o.window) s fun t => s.stored t p k o.d.flag (leBytes 6 o.window ++ leBytes 1 code ++ leBytes 1 0 ++
            leBytes 2 o.landed ++ leBytes 2 (o.firstBad.getD 65535) ++ leBytes 4 (o.k % 4294967296)) ∧
          ((t.pkg p).bole k).sched.occAt st o.window = none ∧ (code ≠ 0 → s.counted t p k cSCHEDBAD 1)) ∧
      (o.d.flagSel = true →
        Answers (.streamRecord p k st o.window) s fun t => s.sameMemory t ∧ ((t.pkg p).bole k).coll.ctr.get 0 (o.d.flag % 256) =
            min 4294967295 (((s.pkg p).bole k).coll.ctr.get 0 (o.d.flag % 256) + 1) ∧
          ((t.pkg p).bole k).sched.occAt st o.window = none)) ∧
    (∀ (p : PkgId) (k : BoleIx) (st : Fin 1024) (o : Occ) (s : State), s.memWf → s.boleUp p k →
      [((s.pkg p).bole k).sched.occAt st ((s.pkg p).tk.tickNum + 1), ((s.pkg p).bole k).sched.occAt st (s.pkg p).tk.tickNum].reduceOption.find?
        Occ.sent = some o →
      o.d.flagSel = false → o.d.flag ≠ 0 → o.d.flag + 16 ≤ 0x600000 →
      Answers (.injectStreamRecord p k st) s fun t =>
        s.stored t p k o.d.flag (leBytes 6 o.window ++ leBytes 1 (if o.sawVoid then 2 else 0) ++ leBytes 1 0 ++
          leBytes 2 o.landed ++ leBytes 2 (o.firstBad.getD 65535) ++ leBytes 4 (o.k % 4294967296)) ∧
        ((t.pkg p).bole k).sched.occAt st o.window = none ∧ (o.sawVoid = true → s.counted t p k cSCHEDBAD 1)))

/-- DERIVED (rests on R208): power and shaping have no effect on the scheduled plane. From states that differ only in the
package's token books and in one bole's shaper, a scheduled send leaves the same flits in every landing buffer and the same
streams. -/
def Obligations.ScheduledFlitsIgnorePowerAndShaping : Prop :=
  ∀ (p : PkgId) (k : BoleIx) (i : Fin 8192) (ev skip : HopEvent) (j : BoleIx) (tok : TokenBlk) (sh : Shaper) (s t u : State),
    u = s.setPkg p { (s.pkg p).updBole j (fun b => { b with shaper := sh }) with tok := tok } →
    exec (.scheduledFlitSend p k i ev skip) s = .next t →
    Answers (.scheduledFlitSend p k i ev skip) u fun v =>
      (∀ r q, ((v.pkg p).rtr r).landing.get [] q = ((t.pkg p).rtr r).landing.get [] q) ∧
      ∀ b, ((v.pkg p).bole b).sched = ((t.pkg p).bole b).sched

/-! ### Chapter 09: multicast and reduction -/

/-- DERIVED (rests on R218, R220, R222, R224): the quadrants of a multicast. No two share both directions, and every
destination of the set lies in the one that its own directions name, within its extents. The multicast buffer. A branch that
takes a flit takes the oldest one that still owes it, each flit once; what the other branches are owed does not change, and
a flit goes when it owes no branch. -/
def Obligations.MulticastQuadrantsAndBranches : Prop :=
  (∀ (P : Package) (e : Env) (k : Nat) (set : McSet),
      ((P.quads e k set).map fun q => (q.dx, q.dy)).Nodup ∧
      ∀ x y, set.has x y = true → ∃ q ∈ P.quads e k set,
        q.dx = dirOf (decide ((P.glade k).w = 64 * e.w)) (64 * e.w) (P.boleX k) x ∧
        q.dy = dirOf (decide ((P.glade k).h = 64 * e.h)) (64 * e.h) (P.boleY k) y ∧
        ringDist (64 * e.w) q.dx (P.boleX k) x ≤ q.extX ∧ ringDist (64 * e.h) q.dy (P.boleY k) y ≤ q.extY) ∧
  (∀ (b : Nat) (l : List (Flit × List Nat)), (∀ x ∈ l, x.2 ≠ [] ∧ x.2.Nodup) →
      ((dropBranch b l).filter fun x => x.2.contains b).map (fun x => x.1) =
        (((l.filter fun x => x.2.contains b).map fun x => x.1).drop 1) ∧
      (∀ b', b' ≠ b → ((dropBranch b l).filter fun x => x.2.contains b').map (fun x => x.1) =
        ((l.filter fun x => x.2.contains b').map fun x => x.1)) ∧
      ∀ x ∈ dropBranch b l, x.2 ≠ [])

/-- DERIVED (rests on R24, R216, R218, R220, R223 to R230, R266): the rows of a multicast. MCAST_ISSUE queues one packet for
each SEQ and quadrant, or waits behind two incomplete operations, or faults with out of glade; in a cycle in which no branch
may send, MCAST_REPLICATE puts a waiting packet's head into the multicast buffer with the branches of Table 9.3;
MCAST_DELIVER writes a new packet's data at LOCAL (of a last granule the bytes that the packet carries, log 40) and marks its
SEQ, sends the MACK when all are held, and counts a duplicate; the MACKs of an attempt that add up to the set complete the
operation with its record; an attempt that falls short starts the next at the second tick, and a branch stall is recorded 4
tick periods, of the length in force at the first injection, after it. -/
def Obligations.MulticastRows : Prop :=
  (∀ (p : PkgId) (k : BoleIx) (m : McOp) (s : State), s.boleUp p k → ((s.pkg p).bole k).running = true →
    m.src + 64 * m.granules ≤ 0x600000 →
    (m.set.inGlade ((s.pkg p).glade k) = true → 1 ≤ m.granules → m.granules ≤ 960 →
      Answers (.mcastIssue p k m) s fun t => s.sameMemory t ∧
        let packets := if ((s.pkg p).bole k).ni.mc.length < 2
          then (m.granules + 29) / 30 * ((s.pkg p).quads (s.env p) k m.set).length else 0
        ((t.pkg p).bole k).ni.nextOpnum = (((s.pkg p).bole k).ni.nextOpnum + 1) % 2048 ∧
        (((t.pkg p).bole k).ni.q.get [] 2).length = (((s.pkg p).bole k).ni.q.get [] 2).length + packets ∧
        ∃ x ∈ ((t.pkg p).bole k).ni.mc, x.opnum = ((s.pkg p).bole k).ni.nextOpnum ∧ x.op = m ∧ x.attempt = 0 ∧
          x.npkt = (m.granules + 29) / 30 ∧ x.left = packets ∧
          x.started = decide (((s.pkg p).bole k).ni.mc.length < 2)) ∧
    (m.set.inGlade ((s.pkg p).glade k) = false → ((s.pkg p).bole k).cause.leaf &&& 1 = 0 →
      Answers (.mcastIssue p k m) s fun t => ((t.pkg p).bole k).cause.fcode = 2 ∧
        ((t.pkg p).bole k).ni = ((s.pkg p).bole k).ni)) ∧
  (∀ (p : PkgId) (r : RtrIx) (port : Port) (vc : Fin 2) (k : Nat) (f g : Flit) (h : Head) (s : State), (s.pkg p).live = true →
    (s.pkg p).boleAt r = some k → (s.pkg p).up k = true → (∀ l side, (s.pkg p).hop r (Port.num port) ≠ .edge l side) →
    ((s.pkg p).rtr r).detour = [] → ((s.pkg p).rtr r).buf.get [] (vkey (Port.num port) 2 vc) = [f, g] →
    f.hdr = .head h → h.op = .mcast → f.isLast = false → f.poison = false → g.isHead = false → g.isLast = true →
    expired (s.pkg p).tk.tickNum f.age = false → expired (s.pkg p).tk.tickNum g.age = false →
    ((s.pkg p).rtr r).mbuf.get [] (mKey (vkey (Port.num port) 2 vc)) = [] →
    (∀ o, o < 5 → (s.pkg p).portReserved (s.env p) r o = true) →
    Answers (.mcastReplicate p r port vc .clean []) s fun t =>
      let br := (s.pkg p).branches (s.env p) k (Port.num port) h (setOf g.data)
      ((t.pkg p).rtr r).buf.get [] (vkey (Port.num port) 2 vc) = [g] ∧
      (br ≠ [] → ((t.pkg p).rtr r).mbuf.get [] (mKey (vkey (Port.num port) 2 vc)) = [(f, br)]) ∧
      (br = [] → ((t.pkg p).rtr r).mbuf.get [] (mKey (vkey (Port.num port) 2 vc)) = []) ∧ s.sameMemory t) ∧
  (∀ (p : PkgId) (k : BoleIx) (h : Head) (fs : List Flit) (n : Ni) (g : Flit) (s : State), s.memWf →
    s.sound p k .mcast h fs n → fs[1]? = some g →
    let i := mcInfo h g.data
    let data := (payloadOf (fs.drop 2)).take (64 * (fs.length - 3) + i.lastBytes)
    (n.dedupOf h.srcX h.srcY h.tag = none → n.dedup.length < 512) →
    ((∀ d r, n.dedupOf h.srcX h.srcY h.tag = some d → r ∈ d.mc → r.opnum = i.opnum → r.held.getLsbD i.seq = false) →
      (s.pkg p).memOk k h.loc data.length = true → h.loc % 64 = 0 → i.flag = 0 →
      Answers (.mcastDeliver p k) s fun t => s.stored t p k h.loc data ∧
        (∃ d r, ((t.pkg p).bole k).ni.dedupOf h.srcX h.srcY h.tag = some d ∧ r ∈ d.mc ∧ r.opnum = i.opnum ∧
          r.held.getLsbD i.seq = true) ∧
        (i.npkt = 1 → i.seq = 0 → (∀ d r, n.dedupOf h.srcX h.srcY h.tag = some d → r ∈ d.mc → r.opnum ≠ i.opnum) →
          ((t.pkg p).bole k).ni.q.get [] 2 = ((s.pkg p).bole k).ni.q.get [] 2 ++
            [{ what := .pkt ((s.pkg p).mack (s.env p) k h i.set i.opnum i.attempt 0 0), pushedAt := s.now }])) ∧
    (∀ d r, n.dedupOf h.srcX h.srcY h.tag = some d → d.mc.find? (fun r => r.opnum == i.opnum) = some r →
      r.held.getLsbD i.seq = true → Answers (.mcastDeliver p k) s fun t => s.sameMemory t ∧ s.counted t p k cDUP 1)) ∧
  (∀ (p : PkgId) (k : BoleIx) (h : Head) (fs : List Flit) (n : Ni) (key : RedKey) (b : RedBody) (m : McSrc) (s : State),
    s.memWf → s.boleUp p k → ((s.pkg p).bole k).ni.takeBy isMack = some (h, fs, n) → malformed .reduce fs = false →
    pktPoison fs = true ∨ ecrcGood fs = true → redOf fs = some (key, b) →
    ((s.pkg p).bole k).ni.mc.find? (fun m => m.opnum == key.chunk % 2048) = some m → m.coll = none →
    let tl := (m.tally.get {} (key.chunk / 2048 % 16)).add b
    (tl.contrib = m.op.set.size → (s.pkg p).memOk k m.op.record 128 = true → ctrWindow m.op.record = none →
      Answers (.mackArrival p k) s fun t => s.stored t p k m.op.record (m.record tl (s.pkg p).tk.tickNum) ∧
        ((t.pkg p).bole k).ni.mc.map (fun x => x.opnum) =
          (((s.pkg p).bole k).ni.mc.filter (fun x => x.opnum != m.opnum)).map (fun x => x.opnum)) ∧
    (tl.contrib ≠ m.op.set.size → Answers (.mackArrival p k) s fun t => s.sameMemory t ∧
      ∃ x ∈ ((t.pkg p).bole k).ni.mc, x.opnum = m.opnum ∧ x.tally.get {} (key.chunk / 2048 % 16) = tl)) ∧
  (∀ (p : PkgId) (k : BoleIx) (opnum : Fin 2048) (m : McSrc) (w at_ period : Nat) (s : State), s.boleUp p k →
    ((s.pkg p).bole k).ni.mc.find? (fun m => m.opnum == opnum.val) = some m →
    (m.lastWin = some w → w + 2 ≤ (s.pkg p).tk.tickNum →
      (m.tally.get {} (m.attempt % 16)).contrib < m.op.set.size → m.coll = none →
      Answers (.mcastAttemptRetry p k opnum) s fun t => s.sameMemory t ∧
        (∃ x ∈ ((t.pkg p).bole k).ni.mc, x.opnum = opnum ∧ x.attempt = m.attempt + 1 ∧ x.op = m.op ∧
          x.left = m.npkt * ((s.pkg p).quads (s.env p) k m.op.set).length) ∧
        (((t.pkg p).bole k).ni.q.get [] 2).length = (((s.pkg p).bole k).ni.q.get [] 2).length +
          m.npkt * ((s.pkg p).quads (s.env p) k m.op.set).length) ∧
    (m.firstAt = some (at_, period) → at_ + 4 * (1500 * period) ≤ s.now → m.stalled = false →
      Answers (.branchStall p k opnum) s fun t => s.counted t p k cBSTALL 1 ∧ ((t.pkg p).bole k).ni.bstallOp = opnum ∧
        ((t.pkg p).bole k).ni.bstallV = true ∧ (∃ x ∈ ((t.pkg p).bole k).ni.mc, x.opnum = opnum ∧ x.stalled = true) ∧
        ((t.pkg p).bole k).ni.q = ((s.pkg p).bole k).ni.q))

/-- DERIVED (rests on R233, R234, R235, Table 9.5): a sum in reproducible mode does not depend on the order in which
contributions of one shape arrive, one from each port; its CONTRIB is the sum of theirs and its STATUS keeps every bit of
theirs. In either mode a contribution of another shape adds to CONTRIB, not to the data, and sets MISMATCH. The number
formats. Integers wrap and compare in two's complement; a NaN gives the canonical NaN, addition commutes, +0 and -0 add to
+0 and are ordered by MAX and MIN, an overflow gives the table's value, and a number of a format rounds to itself. -/
def Obligations.SumsAndNumberFormats : Prop :=
  ((∀ (tick : Nat) (parts parts' : List (Nat × RedBody)), parts.Perm parts' → (parts.map fun x => x.1).Nodup →
      (∀ x ∈ parts, x.1 < 5 ∧ x.2.fast = false) → (∀ x ∈ parts, ∀ y ∈ parts, x.2.sameShape y.2 = true) →
      foldEntry tick parts = foldEntry tick parts') ∧
    (∀ (tick : Nat) (parts : List (Nat × RedBody)), parts ≠ [] → (∀ x ∈ parts, x.1 < 5 ∧ x.2.contrib < 4294967296) →
      ∃ b, foldEntry tick parts = some b ∧ b.contrib = (parts.map fun x => x.2.contrib).sum % 4294967296 ∧
        ∀ x ∈ parts, x.2.status &&& b.status = x.2.status) ∧
    ∀ (tick : Nat) (a b : RedBody), a.sameShape b = false →
      (a.fold tick b).data = a.data ∧ (a.fold tick b).contrib = (a.contrib + b.contrib) % 4294967296 ∧
      (a.fold tick b).status &&& 1 = 1) ∧
  ((∀ (a b : BitVec 32) (wide : Bool), foldElem 0 4 wide a.toNat b.toNat = (a + b).toNat ∧
      (BitVec.ofNat 32 (foldElem 1 4 wide a.toNat b.toNat)).toInt = max a.toInt b.toInt ∧
      (BitVec.ofNat 32 (foldElem 2 4 wide a.toNat b.toNat)).toInt = min a.toInt b.toInt) ∧
    (∀ (fmt : Nat) (f : FFmt), (fmt, f) ∈ [(0, fFp32), (1, fBf16), (2, fE4m3), (3, fE5m2)] →
      (∀ (rop a b : Nat), rop < 3 → f.decode a = .nan ∨ f.decode b = .nan → foldElem rop fmt false a b = f.nan) ∧
      (∀ a b, foldElem 0 fmt false a b = foldElem 0 fmt false b a) ∧
      foldElem 0 fmt false 0 f.signBit = 0 ∧ foldElem 1 fmt false 0 f.signBit = 0 ∧ foldElem 2 fmt false 0 f.signBit = f.signBit ∧
      (∀ w, w < 2 * f.signBit → f.decode w ≠ .nan → f.encode (f.decode w) = w)) ∧
    foldElem 0 2 false 0x7E 0x7E = 0x7E ∧ foldElem 0 3 false 0x7B 0x7B = 0x7C ∧ foldElem 0 1 false 0x7F7F 0x7F7F = 0x7F80)

/-- DERIVED (rests on R231, R232, R238 to R240): the rows of a sum. A contribution that the checks leave
sound joins the entry of its key, and the one that
completes the expected ports sends the sum and frees the entry; a fast entry is flushed and a reproducible one discarded at
its age, each counted; at the root an arrival that does not complete the key is held in the landing zone, and the one that
does leaves the sum at LOCAL, or the flag with CHUNK, STATUS and CONTRIB. -/
def Obligations.ReductionRows : Prop :=
  (∀ (p : PkgId) (k : BoleIx) (port : Port) (sr : Src) (fs gs : List Flit) (reads : List HopEvent) (key : RedKey) (b : RedBody)
    (i : Nat) (s : State),
    (s.pkg p).live = true → (s.pkg p).waitingRed (s.env p) ((s.pkg p).rtrOf k) (Port.num port) = some (sr, fs) →
    ((s.pkg p).readPacket (s.env p) ((s.pkg p).rtrOf k) sr fs reads).1 = gs → 3 ≤ gs.length →
    pktPoison gs = true ∨ ecrcGood gs = true → redOf gs = some (key, b) →
    ((s.pkg p).rtr ((s.pkg p).rtrOf k)).combAt key = some i →
    let c : Comb := match ((s.pkg p).rtr ((s.pkg p).rtrOf k)).comb.get none i with
      | some c => { c with parts := c.parts ++ [(Port.num port, b)] }
      | none => { key := key, expect := (s.pkg p).expected (s.env p) k b.set key.dstX key.dstY, parts := [(Port.num port, b)] }
    ((∃ q ∈ c.expect, ∀ x ∈ c.parts, x.1 ≠ q) → Answers (.reduceCombine p k port reads) s fun t =>
      ((t.pkg p).rtr ((s.pkg p).rtrOf k)).comb.get none i = some c ∧ s.sameMemory t) ∧
    ((∀ q ∈ c.expect, ∃ x ∈ c.parts, x.1 = q) → Answers (.reduceCombine p k port reads) s fun t =>
      ((t.pkg p).rtr ((s.pkg p).rtrOf k)).comb.get none i = none ∧ s.sameMemory t ∧
      ∃ b' h vc, foldEntry (s.pkg p).tk.tickNum c.parts = some b' ∧ h.tag = c.key.tag ∧ h.dstX = c.key.dstX ∧
        h.dstY = c.key.dstY ∧ h.srcX = (s.pkg p).boleX k ∧ h.srcY = (s.pkg p).boleY k ∧ h.age = b'.age ∧
        ((t.pkg p).rtr ((s.pkg p).rtrOf k)).comOut.get [] vc = ((s.pkg p).rtr ((s.pkg p).rtrOf k)).comOut.get [] vc ++
          (redPacket h c.key b').map (fun f => f.setVc vc))) ∧
  (∀ (p : PkgId) (k : BoleIx) (entry : Fin 64) (c : Comb) (s : State), (s.pkg p).live = true →
    ((s.pkg p).rtr ((s.pkg p).rtrOf k)).comb.get none entry = some c →
    (c.fast = true → c.age (s.pkg p).tk.tickNum = 1 → Answers (.combineFlush p k entry) s fun t =>
      ((t.pkg p).rtr ((s.pkg p).rtrOf k)).comb.get none entry = none ∧ s.counted t p k cCOMBFLUSH 1) ∧
    (c.fast = false → c.age (s.pkg p).tk.tickNum = 2 → Answers (.combineExpire p k entry) s fun t =>
      ((t.pkg p).rtr ((s.pkg p).rtrOf k)).comb.get none entry = none ∧ s.counted t p k cCOMBEXPIRED 1 ∧
      ((t.pkg p).rtr ((s.pkg p).rtrOf k)).comOut = ((s.pkg p).rtr ((s.pkg p).rtrOf k)).comOut)) ∧
  (∀ (p : PkgId) (k : BoleIx) (h : Head) (fs : List Flit) (n : Ni) (key : RedKey) (b : RedBody) (s : State), s.memWf →
    s.boleUp p k → ((s.pkg p).bole k).ni.takeBy (fun h fs => decide (h.op = .reduce) && !isMack h fs) = some (h, fs, n) →
    malformed .reduce fs = false → pktPoison fs = true ∨ ecrcGood fs = true → redOf fs = some (key, b) →
    (∀ x ∈ ((s.pkg p).bole k).ni.roots, x.key ≠ key) → (s.pkg p).redOwner k key = none →
    b.acc = false → b.wide = false → (s.pkg p).memOk k b.loc (redSize b.fmt false * (b.elems + 1)) = true →
    (b.set.size ≤ b.contrib → b.flag = 0 → Answers (.reduceRootLand p k) s fun t =>
      s.stored t p k b.loc (bytesOf (redSize b.fmt false) (elemsOf (redSize b.fmt false) (b.elems + 1) b.data)) ∧
      ∀ x ∈ ((t.pkg p).bole k).ni.roots, x.key ≠ key) ∧
    (b.set.size ≤ b.contrib → b.flag ≠ 0 → ctrWindow b.flag = none → b.flag + 8 ≤ 0x600000 →
      Answers (.reduceRootLand p k) s fun t =>
        ∀ j < 8, t.leafByte p k (b.flag + j) =
          (leBytes 3 key.chunk ++ leBytes 1 (b.status ||| (if b.poison then 2 else 0)) ++ leBytes 4 b.contrib).getD j 0) ∧
    (b.contrib < b.set.size → Answers (.reduceRootLand p k) s fun t =>
      s.stored t p k b.loc (b.data.take (redSize b.fmt false * (b.elems + 1))) ∧
      ∃ x ∈ ((t.pkg p).bole k).ni.roots, x.key = key ∧ x.contrib = b.contrib ∧ x.zone = b.loc))

/-! ### Chapter 11: check values -/

/-- DERIVED (rests on R275): the engine is the linear register of a CRC. Feeding a byte is eight steps of R275, most
significant bit of the (possibly reflected) byte first; a step of the register with XORed states and bits is the XOR of the
steps; and the state stays within its W bits. -/
def Obligations.CheckValueEngineIsLinear : Prop :=
  (∀ (c : Cv) (b : Nat), (c.feed b).state = [7, 6, 5, 4, 3, 2, 1, 0].foldl (fun st i =>
      let top := bitAt st (c.cfg % 64) != bitAt ((if bitAt c.cfg 8 then reflect 8 b else b) % 256) i
      if top then (2 * st % 2 ^ (c.cfg % 64 + 1)) ^^^ (c.poly % 2 ^ (c.cfg % 64 + 1)) else 2 * st % 2 ^ (c.cfg % 64 + 1)) c.state ∧
    (c.feed b).cfg = c.cfg ∧ (c.feed b).bytes = c.bytes ∧ (c.feed b).state < 2 ^ (c.cfg % 64 + 1)) ∧
  (∀ (c : Cv) (x y a b : Nat), x < 2 ^ (c.cfg % 64 + 1) → y < 2 ^ (c.cfg % 64 + 1) → a < 256 → b < 256 →
    (({ c with state := x ^^^ y } : Cv).feed (a ^^^ b)).state =
      (({ c with state := x } : Cv).feed a).state ^^^ (({ c with state := y } : Cv).feed b).state) ∧
  ∀ c : Cv, c.result < 2 ^ (c.cfg % 64 + 1)

/-- DERIVED (rests on R272, R273, R279, R281, R283, R274, R276 to R278, R284, R285): a write to a unit waits as its FIFO's
last entry, whatever waits before it, and behind four entries it enters when the first of them has been carried out (log
33); one of a wrong width sets SIZE_ERR and takes no entry. The engine carries out the entry at the head and no other: a row
for another kind of entry changes nothing. What an entry does. START masks CV_INIT into the state and zeroes CV_BYTES, and
feeds the alive counter when ALIVE_FEED is 1; a data write feeds its bytes in the order of ORDER and counts them; CLOSE
latches the result, compares it, counts, and starts the next message; a mismatch raises its cause when it is enabled; a CFG
write masks the state; STATE and ALIVE are set; a write of 1 clears a status bit. The watch counts at each tick, and sets
STALLED when it reaches WATCH. -/
def Obligations.CheckValueUnits : Prop :=
  ((∀ (p : PkgId) (u : CvUnit) (off w : Nat) (v : BitVec 64) (s : State), (s.pkg p).live = true → (s.pkg p).cvLive u = true →
      (∀ k, u = .bole k → ((s.pkg p).bole k).running = true) → (∀ f, u = .root f → (s.pkg p).rt.linkUp = true) →
      cvIsReg off = true →
      let c := (s.pkg p).cvOf u
      (cvWidthOk off w = true → c.fifo.length < 4 → Answers (.cvWrite p u off w v) s fun t => (t.pkg p).cvOf u =
        { c with fifo := c.fifo ++ [(off, w, v.toNat % 2 ^ w)], notEmpty := c.notEmpty + (if c.fifo = [] then 1 else 0) }) ∧
      (cvWidthOk off w = true → 4 ≤ c.fifo.length → Answers (.cvWrite p u off w v) s fun t =>
        ((t.pkg p).cvOf u).fifo = c.fifo.drop 1 ++ [(off, w, v.toNat % 2 ^ w)] ∧ ((t.pkg p).cvOf u).notFull = c.notFull) ∧
      (cvWidthOk off w = false → Answers (.cvWrite p u off w v) s fun t => (t.pkg p).cvOf u =
        { (s.pkg p).cvOf u with status := ((s.pkg p).cvOf u).status ||| 4 })) ∧
    (∀ (p : PkgId) (u : CvUnit) (c : Instr) (kind : CvKind) (off w v : Nat) (rest : List (Nat × Nat × Nat)) (s : State),
      (c, kind) ∈ [(.cvStart p u, .start), (.cvDin8 p u, .din8), (.cvDin16 p u, .din16), (.cvDin32 p u, .din32),
        (.cvClose p u, .close), (.cvParamWrite p u, .param), (.cvStateWrite p u, .state), (.cvAliveWrite p u, .alive)] →
      (s.pkg p).live = true → (s.pkg p).cvLive u = true → ((s.pkg p).cvOf u).fifo = (off, w, v) :: rest →
      (cvKind off = kind → Answers c s fun t => ((t.pkg p).cvOf u).fifo = rest) ∧
      (cvKind off ≠ kind → Answers c s fun t => (t.pkg p).cvOf u = (s.pkg p).cvOf u))) ∧
  ((∀ (p : PkgId) (u : CvUnit) (off w v : Nat) (rest : List (Nat × Nat × Nat)) (s : State), (s.pkg p).live = true →
      (s.pkg p).cvLive u = true → ((s.pkg p).cvOf u).fifo = (off, w, v) :: rest →
      let c := (s.pkg p).cvOf u
      let init := c.init % 2 ^ (c.cfg % 64 + 1)
      (cvKind off = .start → Answers (.cvStart p u) s fun t => ((t.pkg p).cvOf u).bytes = 0 ∧
        ((t.pkg p).cvOf u).state = (if bitAt c.cfg 11 then
          ((({ c with state := init } : Cv).feed (c.alive % 256)).feed (c.alive / 256 % 256)).state else init)) ∧
      (cvKind off = .din8 → Answers (.cvDin8 p u) s fun t => ((t.pkg p).cvOf u).state = (c.feed (v % 256)).state ∧
        ((t.pkg p).cvOf u).bytes = min 4294967295 (c.bytes + 1)) ∧
      (cvKind off = .din16 → Answers (.cvDin16 p u) s fun t => ((t.pkg p).cvOf u).state =
          (if bitAt c.cfg 10 then ((c.feed (v / 256 % 256)).feed (v % 256)).state
           else ((c.feed (v % 256)).feed (v / 256 % 256)).state) ∧
        ((t.pkg p).cvOf u).bytes = min 4294967295 (c.bytes + 2)) ∧
      (cvKind off = .din32 → Answers (.cvDin32 p u) s fun t => ((t.pkg p).cvOf u).state =
          (let bs := [v % 256, v / 256 % 256, v / 65536 % 256, v / 16777216 % 256]
           ((if bitAt c.cfg 10 then bs.reverse else bs).foldl Cv.feed c).state) ∧
        ((t.pkg p).cvOf u).bytes = min 4294967295 (c.bytes + 4)) ∧
      (cvKind off = .close → Answers (.cvClose p u) s fun t =>
        let d := (t.pkg p).cvOf u
        let bad := c.result ≠ c.expect % 2 ^ (c.cfg % 64 + 1)
        d.latched = c.result ∧ d.alive = (c.alive + 1) % 65536 ∧ d.watch = 0 ∧ d.bytes = 0 ∧
        (bitAt c.cfg 11 = false → d.state = init) ∧
        (bitAt c.cfg 12 = false → d.cntMatch = c.cntMatch ∧ d.cntMismatch = c.cntMismatch ∧ d.status = c.status) ∧
        (bitAt c.cfg 12 = true → ¬ bad → d.cntMatch = min 65535 (c.cntMatch + 1) ∧ d.cntMismatch = c.cntMismatch ∧
          d.status = c.status) ∧
        (bitAt c.cfg 12 = true → bad → d.cntMismatch = min 65535 (c.cntMismatch + 1) ∧ d.cntMatch = c.cntMatch ∧
          bitAt d.status 0 = true ∧
          (bitAt c.cfg 16 = true → ∀ k, u = .bole k →
            ((t.pkg p).bole k).cause.leaf = ((s.pkg p).bole k).cause.leaf ||| 2) ∧
          (bitAt c.cfg 16 = true → ∀ f, u = .root f →
            ((t.pkg p).fn f).funcLeaf = ((s.pkg p).fn f).funcLeaf ||| 4))) ∧
      (cvKind off = .state → w = 64 → Answers (.cvStateWrite p u) s fun t =>
        ((t.pkg p).cvOf u).state = v % 2 ^ (c.cfg % 64 + 1)) ∧
      (cvKind off = .alive → Answers (.cvAliveWrite p u) s fun t => (t.pkg p).cvOf u =
        { c with fifo := rest, notFull := c.notFull + (if 3 ≤ rest.length then 1 else 0), alive := v % 65536 }) ∧
      (off = 0 → Answers (.cvParamWrite p u) s fun t => ((t.pkg p).cvOf u).cfg = v &&& 0xFF031F3F ∧
        ((t.pkg p).cvOf u).state = c.state % 2 ^ (v % 64 + 1) ∧ ((t.pkg p).cvOf u).poly = c.poly) ∧
      (off = 0x08 → w = 64 → Answers (.cvParamWrite p u) s fun t => (t.pkg p).cvOf u =
        { c with fifo := rest, notFull := c.notFull + (if 3 ≤ rest.length then 1 else 0), poly := v }) ∧
      (off = 0x0C → w = 32 → Answers (.cvParamWrite p u) s fun t =>
        ((t.pkg p).cvOf u).poly = c.poly % 2 ^ 32 + v % 2 ^ 32 * 2 ^ 32) ∧
      (off = 0x58 → ∀ i, i < 3 → Answers (.cvParamWrite p u) s fun t =>
        bitAt ((t.pkg p).cvOf u).status i = (bitAt c.status i && !bitAt v i))) ∧
    (∀ (p : PkgId) (u : CvUnit) (s : State), (s.pkg p).live = true → (s.pkg p).cvLive u = true →
      (((s.pkg p).cvOf u).due = true → Answers (.cvWatchExpire p u) s fun t =>
        bitAt ((t.pkg p).cvOf u).status 1 = true ∧ ((t.pkg p).cvOf u).due = false ∧
        (bitAt ((s.pkg p).cvOf u).cfg 17 = true → ∀ k, u = .bole k →
          ((t.pkg p).bole k).cause.leaf = ((s.pkg p).bole k).cause.leaf ||| 4)) ∧
      (((s.pkg p).cvOf u).due = false → Answers (.cvWatchExpire p u) s fun t => (t.pkg p).cvOf u = (s.pkg p).cvOf u)) ∧
    ∀ c : Cv, c.tick.watch = min 255 (c.watch + 1) ∧
      (c.watch < 255 → (c.tick.due = true ↔ c.watch + 1 = bits c.cfg 31 24)))

/-! ### Chapter 12: shaping, watermarks -/

/-- STATED (R296): a red head whose levels are all two-bucket is red for at most ceil(n * 65,536 / r) cycles, r the smallest
peak rate among its levels; at a wheel level a head is green within n * SPACING / 16 + 16 cycles of its service's previous
admission, of n flits, which was made in a green cycle. -/
def Obligations.RedHeadsAreReleased : Prop :=
  (∀ (sh : Shaper) (sub : Rates) (vn i n now : Nat) (h0 h1 : List HeadAt), sh.en = true → svcOf vn = some i → (sh.svc i).wheel = false →
    sub.good = true → (sh.svc i).rates.good = true → n ≤ 32 → sh.asOf ≤ now →
    ceilDiv (n * 65536) (min (rateOf sub.pir) (rateOf (sh.svc i).rates.pir)) ≤ now - sh.asOf →
    (sh.advance sub now h0 h1).colour vn n now ≠ .red) ∧
  (∀ (sh : Shaper) (vn i n m t now : Nat), sh.en = true → svcOf vn = some i → (sh.svc i).wheel = true →
    (sh.svc i).colour n t = .green → t + (n * (sh.svc i).spacing / 16 + 16) ≤ now →
    ((sh.debit vn n t).svc i).colour m now = .green)

/-- DERIVED (rests on R289, R290, R292, R293, R295, R294, R299, R300, Table 18.10): what admission and time do. With EN 0
every packet is green and nothing moves. A packet that a level finds green is debited on both contents, a yellow one on the
peak alone, and neither falls below 0; buckets gain their rates up to their depths, and waiting never makes a packet that
was not red at a two-bucket level red. The shaper's rows. A service field that keeps R294 waits for the tick, one that would
break it sets BADCFG and changes no configuration; a staged subscriber field is taken or refused alike, and one of the
committed copy, which bring-up alone accepts, acts from the next tick; setting EN fills the buckets; and a push from the
collective lanes takes one packet of a lane that has one. -/
def Obligations.Shapers : Prop :=
  ((∀ (sh : Shaper) (vn n now : Nat) (sub : Rates) (h0 h1 : List HeadAt), sh.en = false →
      sh.colour vn n now = .green ∧ sh.debit vn n now = sh ∧ sh.advance sub now h0 h1 = { sh with asOf := now }) ∧
    (∀ (sh : Shaper) (vn i n now : Nat), sh.en = true → svcOf vn = some i → (sh.svc i).wheel = false →
      sh.colour vn n now ≠ .red →
      (sh.debit vn n now).sub.p + 65536 * n = sh.sub.p ∧ ((sh.debit vn n now).svc i).bucket.p + 65536 * n = (sh.svc i).bucket.p ∧
      (sh.colour vn n now = .green → (sh.debit vn n now).sub.c + 65536 * n = sh.sub.c ∧
        ((sh.debit vn n now).svc i).bucket.c + 65536 * n = (sh.svc i).bucket.c) ∧
      (sh.colour vn n now = .yellow → (sh.debit vn n now).sub.c = sh.sub.c ∧
        ((sh.debit vn n now).svc i).bucket.c = (sh.svc i).bucket.c) ∧
      ∀ j, j < 2 → j ≠ i → (sh.debit vn n now).svc j = sh.svc j) ∧
    (∀ (b : Bucket) (r : Rates) (n dt : Nat), (b.fill r dt).p ≤ 65536 * r.pbs ∧ (b.fill r dt).c ≤ 65536 * r.cbs ∧
      (b.p ≤ 65536 * r.pbs → b.colour n ≠ .red → (b.fill r dt).colour n ≠ .red))) ∧
  ((∀ (p : PkgId) (site : ShSite) (i : Fin 2) (v : BitVec 32) (s : State), (s.pkg p).live = true →
      let sh := (s.pkg p).shaper site
      let c := sh.cfg i
      let r : Rates := { c.2.1 with pir := v.toNat % 131072 }
      (r.good = true → 16 ≤ c.2.2 → c.2.2 ≤ 8191 → Answers (.shaperFieldWrite p site (.pir i) .committed v) s fun t =>
        ((t.pkg p).shaper site).cfg i = (c.1, r, c.2.2) ∧ ((t.pkg p).shaper site).svc i = sh.svc i ∧
        ((t.pkg p).shaper site).badCfg = sh.badCfg) ∧
      (r.good = false → Answers (.shaperFieldWrite p site (.pir i) .committed v) s fun t =>
        (t.pkg p).shaper site = { sh with badCfg := true })) ∧
    (∀ (p : PkgId) (site : ShSite) (i : Fin 2) (v : BitVec 32) (s : State), (s.pkg p).live = true →
      let sh := (s.pkg p).shaper site
      (v.toNat % 8192 < 16 → Answers (.shaperFieldWrite p site (.spacing i) .committed v) s fun t =>
        (t.pkg p).shaper site = { sh with badCfg := true }) ∧
      (16 ≤ v.toNat % 8192 → (sh.cfg i).2.1.good = true → Answers (.shaperFieldWrite p site (.spacing i) .committed v) s fun t =>
        ((t.pkg p).shaper site).cfg i = ((sh.cfg i).1, (sh.cfg i).2.1, v.toNat % 8192) ∧
        ((t.pkg p).shaper site).svc i = sh.svc i)) ∧
    (∀ (p : PkgId) (site : ShSite) (v : BitVec 32) (s : State), (s.pkg p).live = true →
      let r : Rates := { (s.pkg p).stag.subRates site with cir := v.toNat % 131072 }
      (r.good = true → Answers (.shaperFieldWrite p site .subCir .staged v) s fun t => (t.pkg p).stag.subRates site = r ∧
        (t.pkg p).comm = (s.pkg p).comm) ∧
      (r.good = false → Answers (.shaperFieldWrite p site .subCir .staged v) s fun t => (t.pkg p).stag = (s.pkg p).stag ∧
        (t.pkg p).comm = (s.pkg p).comm ∧ ((t.pkg p).shaper site).badCfg = true)) ∧
    (∀ (p : PkgId) (site : ShSite) (v : BitVec 32) (s : State), (s.pkg p).live = true → (s.pkg p).rt.bringup = true →
      let old := (s.pkg p).comm.subRates site
      let r : Rates := { old with cir := v.toNat % 131072 }
      r.good = true → Answers (.shaperFieldWrite p site .subCir .committed v) s fun t => (t.pkg p).comm.subRates site = r ∧
        ((t.pkg p).shaper site).subIn r = ((s.pkg p).shaper site).subIn old ∧
        ∀ n, (((t.pkg p).shaper site).tick r n).subIn r = r) ∧
    (∀ (sh : Shaper) (sub : Rates) (w : Bool) (r : Rates) (sp n : Nat), sh.next0 = some (w, r, sp) →
      (sh.tick sub n).svc0.rates = r ∧ (sh.tick sub n).svc0.wheel = w ∧ (sh.tick sub n).svc0.spacing = sp ∧
      (sh.tick sub n).svc0.bucket.c ≤ sh.svc0.bucket.c ∧ (sh.tick sub n).svc0.bucket.p ≤ 65536 * r.pbs ∧
      (sh.tick sub n).next0 = none) ∧
    (∀ (p : PkgId) (site : ShSite) (s : State), (s.pkg p).live = true → ((s.pkg p).shaper site).en = false →
      Answers (.shCtrlEnable p site true) s fun t => ((t.pkg p).shaper site).en = true ∧
        (let r := ((s.pkg p).shaper site).subOld.getD ((s.pkg p).comm.subRates site)
         ((t.pkg p).shaper site).sub = ⟨65536 * r.cbs, 65536 * r.pbs⟩) ∧
        ∀ i, i < 2 → (((t.pkg p).shaper site).svc i).bucket =
          ⟨65536 * (((s.pkg p).shaper site).svc i).rates.cbs, 65536 * (((s.pkg p).shaper site).svc i).rates.pbs⟩) ∧
    (∀ (p : PkgId) (site : ShSite) (s : State), (s.pkg p).live = true →
      Answers (.shCtrlEnable p site false) s fun t => ((t.pkg p).shaper site).en = false) ∧
    (∀ (p : PkgId) (k : BoleIx) (s : State), s.boleUp p k → (((s.pkg p).bole k).ni.q.get [] 2).length < 32 →
      (∃ l, l < 8 ∧ ((s.pkg p).bole k).coll.lane l ≠ []) →
      Answers (.lanePush p k) s fun t => ∃ l x rest, ((s.pkg p).bole k).coll.lane l = x :: rest ∧
        ((t.pkg p).bole k).coll.lane l = rest ∧ (∀ j, j ≠ l → ((t.pkg p).bole k).coll.lane j = ((s.pkg p).bole k).coll.lane j) ∧
        ((t.pkg p).bole k).ni.q.get [] 2 = ((s.pkg p).bole k).ni.q.get [] 2 ++
          [{ what := .pkt x.flits, pushedAt := s.now, key := some (x.group, x.epoch) }]))

/-- DERIVED (rests on R8, R282, R302, R303, Tables 12.3 and 12.4): watermarks and the reads that clear. LEVEL rises at a
depth of HI and falls at one of LO, and every rise sets EVENT and counts; a write keeps thresholds with LO below HI, or HI
0, which clears LEVEL; a written 1 clears EVENT; and a read of a counter that clears leaves 0 there and changes nothing else
of its block, a check-value unit's after every write that waits there. -/
def Obligations.WatermarksAndReadsThatClear : Prop :=
  (∀ (w : Wm) (d : Nat), w.hi ≠ 0 → w.lo < w.hi →
    ((w.depth d).1.level = true ↔ w.hi ≤ d ∨ (w.level = true ∧ w.lo < d)) ∧
    (w.level = false → w.hi ≤ d → (w.depth d).1.event = true ∧ (w.depth d).1.count = min 65535 (w.count + 1) ∧
      (w.depth d).2 = true) ∧
    (w.level = true ∨ d < w.hi → (w.depth d).1.event = w.event ∧ (w.depth d).1.count = w.count ∧ (w.depth d).2 = false) ∧
    (w.depth d).1.hi = w.hi ∧ (w.depth d).1.lo = w.lo) ∧
  (∀ (p : PkgId) (w : WmSel) (v : BitVec 32) (s : State), (s.pkg p).live = true →
    let m := ((s.pkg p).mon w).wm
    let hi := v.toNat % 256
    let lo := v.toNat / 256 % 256
    Answers (.watermarkWrite p w v) s fun t =>
      let m' := ((t.pkg p).mon w).wm
      (hi = 0 ∨ lo < hi → m'.hi = hi ∧ m'.lo = lo) ∧ (hi ≠ 0 → hi ≤ lo → m'.hi = m.hi ∧ m'.lo = m.lo) ∧
      (hi = 0 → m'.level = false ∧ m'.count = m.count ∧ m'.event = (m.event && !bitAt v.toNat 17)) ∧
      m'.ie = bitAt v.toNat 18 ∧
      (m.event = true → m.ie = false → bitAt v.toNat 17 = false → bitAt v.toNat 18 = true → ∀ k x, w = .inj k x →
        ((t.pkg p).bole k).cause.leaf &&& 8 = 8)) ∧
  (∀ (p : PkgId) (s : State), (s.pkg p).live = true →
    Answers (.rcRead p .overspend) s fun t => (t.pkg p).tok = { (s.pkg p).tok with overspend := 0 }) ∧
  (∀ (p : PkgId) (u : CvUnit) (s : State), (s.pkg p).live = true → (s.pkg p).cvReach u = true →
    let c := ((s.pkg p).cvDrain u).cvOf u
    c.fifo = [] ∧ (Answers (.rcRead p (.cvMatch u)) s fun t => (t.pkg p).cvOf u = { c with cntMatch := 0 }) ∧
    Answers (.rcRead p (.cvMismatch u)) s fun t => (t.pkg p).cvOf u = { c with cntMismatch := 0 }) ∧
  (∀ (p : PkgId) (w : WmSel) (s : State), (s.pkg p).live = true →
    Answers (.rcRead p (.wmCount w)) s fun t => (t.pkg p).mon w = { (s.pkg p).mon w with
      wm := { ((s.pkg p).mon w).wm with count := 0 } })

/-! ### Chapter 13: efts, collectives, counters -/

/-- DERIVED (rests on R307 to R314, R473): the rows of efts. An EFT packet hands a collective step or a FLAG to its bole,
and a reserved KIND is counted; TW_SEND queues a FLAG inside the glade and refuses anything else; a twig router moves the
eft at its input towards its destination, or discards it when its word is bad; a FLAG goes into its inbox, and in a cycle
without a push to it (R186) the program pops the oldest entry, the second half of which the latch holds. -/
def Obligations.EftRows : Prop :=
  (∀ (p : PkgId) (k : BoleIx) (fl : Flit) (rest : List Flit) (h : Head) (s : State), s.boleUp p k →
    ((s.pkg p).bole k).ni.ej.get [] 6 = fl :: rest → fl.hdr = .head h → h.op = .eft → fl.isLast = true → fl.poison = false →
    ecrcGood [fl] = true →
    let f := Eft.ofValue (leNat (fl.data.take 16))
    ((2 ≤ f.kind ∧ f.kind ≤ 7) ∨ (f.kind = 1 ∧ (s.pkg p).eftRoom k f = true) → Answers (.eftPacket p k) s fun t =>
      ((t.pkg p).bole k).coll.arrived = ((s.pkg p).bole k).coll.arrived ++ [f] ∧ ((t.pkg p).bole k).ni.ej.get [] 6 = rest) ∧
    (f.kind = 0 ∨ 11 ≤ f.kind → Answers (.eftPacket p k) s fun t =>
      ((t.pkg p).bole k).coll.arrived = ((s.pkg p).bole k).coll.arrived ∧ ((t.pkg p).bole k).ni.ej.get [] 6 = rest ∧
      ((t.pkg p).bole k).coll.twCnt.get 0 twBADEFT = min 4294967295 (((s.pkg p).bole k).coll.twCnt.get 0 twBADEFT + 1))) ∧
  (∀ (p : PkgId) (k : BoleIx) (f : Eft) (s : State), s.boleUp p k → ((s.pkg p).bole k).running = true →
    (f.kind = 1 → ((s.pkg p).glade k).holds f.dstX f.dstY = true →
      (((s.pkg p).bole k).coll.sendQ.length < 16 → Answers (.twSendWrite p k f) s fun t =>
        ((t.pkg p).bole k).coll.sendQ = ((s.pkg p).bole k).coll.sendQ ++
          [{ (s.pkg p).mkEft (s.env p) k 1 (f.dstX, f.dstY) 0 0 0 f.data with inbox := f.inbox }]) ∧
      (16 ≤ ((s.pkg p).bole k).coll.sendQ.length → Answers (.twSendWrite p k f) s fun t =>
        ((t.pkg p).bole k).coll.sendQ = ((s.pkg p).bole k).coll.sendQ ∧
        ((t.pkg p).bole k).coll.twCnt.get 0 twSENDREF = min 4294967295 (((s.pkg p).bole k).coll.twCnt.get 0 twSENDREF + 1))) ∧
    (f.kind = 1 → ((s.pkg p).glade k).holds f.dstX f.dstY = false → ((s.pkg p).bole k).cause.leaf &&& 1 = 0 →
      Answers (.twSendWrite p k f) s fun t => ((t.pkg p).bole k).cause.fcode = 2 ∧
        ((t.pkg p).bole k).coll = ((s.pkg p).bole k).coll) ∧
    (f.kind ≠ 1 → Answers (.twSendWrite p k f) s fun t =>
      ((t.pkg p).bole k).coll.sendQ = ((s.pkg p).bole k).coll.sendQ ∧
      ((t.pkg p).bole k).coll.twCnt.get 0 twBADEFT = min 4294967295 (((s.pkg p).bole k).coll.twCnt.get 0 twBADEFT + 1))) ∧
  (∀ (p : PkgId) (r : RtrIx) (port : Port) (vc : Fin 2) (f : Eft) (rest : List Eft) (r' p' : Nat) (s : State),
    (s.pkg p).live = true → (∀ k, (s.pkg p).hop r (Port.num port) ≠ .bole k) →
    (∀ l side, (s.pkg p).hop r (Port.num port) ≠ .edge l side) →
    ((s.pkg p).rtr r).tw.get [] (2 * Port.num port + vc) = f :: rest →
    let o := (s.pkg p).twRoute (s.env p) r (Port.num port) vc f
    ((s.pkg p).twHop r o.1 = .rtr r' p' → r' ≠ r → ((s.pkg p).rtr r').twOff.get false (2 * p' + o.2) = false →
      (((s.pkg p).rtr r').tw.get [] (2 * p' + o.2)).length < 8 → ∀ n, Answers (.twigForward p r port vc { corrected := n }) s fun t =>
        ((t.pkg p).rtr r').tw.get [] (2 * p' + o.2) = ((s.pkg p).rtr r').tw.get [] (2 * p' + o.2) ++ [f] ∧
        ((t.pkg p).rtr r).tw.get [] (2 * Port.num port + vc) = rest) ∧
    (∀ ev : HopEvent, ev.headerBad = true ∨ ev.payloadBad = true ∨ ev.codeBad = true → Answers (.twigForward p r port vc ev) s fun t =>
      ((t.pkg p).rtr r).tw.get [] (2 * Port.num port + vc) = rest ∧
      ((t.pkg p).bole ((s.pkg p).eventBole r)).coll.twCnt.get 0 twBROKEN =
        min 4294967295 (((s.pkg p).bole ((s.pkg p).eventBole r)).coll.twCnt.get 0 twBROKEN + 1))) ∧
  (∀ (p : PkgId) (k : BoleIx) (f : Eft) (rest : List Eft) (s : State), s.boleUp p k →
    ((s.pkg p).bole k).coll.arrived = f :: rest → f.kind = 1 →
    (((s.pkg p).bole k).coll.inbox.get {} f.inbox).q.length < 64 →
    Answers (.flagEft p k) s fun t => (((t.pkg p).bole k).coll.inbox.get {} f.inbox).q =
        (((s.pkg p).bole k).coll.inbox.get {} f.inbox).q ++ [(f, s.now)] ∧ ((t.pkg p).bole k).coll.arrived = rest) ∧
  (∀ (p : PkgId) (k : BoleIx) (i : Fin 16) (s : State), s.boleUp p k → ((s.pkg p).bole k).running = true →
    (((s.pkg p).bole k).coll.inbox.get {} i).mon.pushCyc ≠ some s.now →
    (∀ f w rest, (((s.pkg p).bole k).coll.inbox.get {} i).q = (f, w) :: rest → Answers (.inboxPop p k i) s fun t =>
      ((t.pkg p).bole k).loaded = leBytes 8 f.value ∧ (((t.pkg p).bole k).coll.inbox.get {} i).latch = f.value ∧
      (((t.pkg p).bole k).coll.inbox.get {} i).q = rest) ∧
    ((((s.pkg p).bole k).coll.inbox.get {} i).q = [] → Answers (.inboxPop p k i) s fun t =>
      ((t.pkg p).bole k).loaded = leBytes 8 0 ∧ (((t.pkg p).bole k).coll.inbox.get {} i).q = []))

/-- DERIVED (rests on R319, R339): the blocks of a REDUCE_SCATTER lie one after the other in member order and cover every
element once, whatever COUNT and N. Every member computes the same shed tick and code. The notice taken has the smallest
loss tick at or after T0, a reset before an abort of the same tick; it depends on which notices are held, not on their
order; S is D or r + 8, whichever is earlier. -/
def Obligations.CollectiveMembersAgree : Prop :=
  (∀ c : ChunkCtx, 0 < c.n → c.blockAt 0 = 0 ∧ c.blockAt c.n = c.o.n ∧
      (∀ m, m < c.n → c.blockAt (m + 1) = c.blockAt m + c.blockLen m) ∧
      (∀ m, c.blockLen m = c.o.n / c.n ∨ c.blockLen m = c.o.n / c.n + 1) ∧
      ∀ i, i < c.o.n → ∃ m, m < c.n ∧ c.blockAt m ≤ i ∧ i < c.blockAt m + c.blockLen m ∧
        ∀ m', m' < c.n → c.blockAt m' ≤ i → i < c.blockAt m' + c.blockLen m' → m' = m) ∧
  ((∀ (c : Coll) (t0 : Nat), (c.lossFor t0 = none ↔ ∀ v ∈ c.loss, v % 281474976710656 < t0) ∧
      ∀ r ab, c.lossFor t0 = some (r, ab) → t0 ≤ r ∧ (∃ v ∈ c.loss, v % 281474976710656 = r ∧ bitAt v 63 = ab) ∧
        (∀ v ∈ c.loss, t0 ≤ v % 281474976710656 → r ≤ v % 281474976710656) ∧
        (ab = true → ∀ v ∈ c.loss, v % 281474976710656 = r → bitAt v 63 = true)) ∧
    (∀ (c c' : Coll) (t0 : Nat), c.loss.Perm c'.loss → c.lossFor t0 = c'.lossFor t0) ∧
    ∀ (d r : Nat) (ab : Bool), shedTick d none = d ∧ shedCode d none = 1 ∧ shedTick d (some (r, ab)) = min d (r + 8) ∧
      (r + 8 ≤ d → shedCode d (some (r, ab)) = if ab then 3 else 2) ∧ (d < r + 8 → shedCode d (some (r, ab)) = 1))

/-- DERIVED (rests on R323 to R327, R325, Table 13.10): the collective engine. An eft of another epoch is discarded and
counted; an upward one is tallied, and when it is the last child's the member sends its own; a downward one is kept and, at
a member with no children, ends the operation: RELEASE a barrier, RED_DOWN a one-word SCALAR with the result at DST,
SCAN_DOWN a count exchange with its four words there. -/
def Obligations.CollectiveEngine : Prop :=
  (∀ (p : PkgId) (k : BoleIx) (c : Instr) (kind : Nat) (f : Eft) (rest : List Eft) (s : State), s.boleUp p k →
    (c, kind) ∈ [(.arrive p k, 2), (.release p k, 3), (.redUp p k, 4), (.redDown p k, 5), (.scanUp p k, 6), (.scanDown p k, 7)] →
    ((s.pkg p).bole k).coll.arrived = f :: rest → f.kind = kind →
    let ep := (((s.pkg p).bole k).coll.group f.group).epoch
    (f.epoch ≠ ep → f.epoch ≠ (ep + 1) % 64 → Answers c s fun t =>
      ((t.pkg p).bole k).coll.arrived = rest ∧ ((t.pkg p).bole k).coll.ops = ((s.pkg p).bole k).coll.ops ∧
      ((t.pkg p).bole k).coll.tally = ((s.pkg p).bole k).coll.tally ∧
      ((t.pkg p).bole k).coll.cnt.get 0 clSTALE = min 4294967295 (((s.pkg p).bole k).coll.cnt.get 0 clSTALE + 1)) ∧
    (f.epoch = ep ∨ f.epoch = (ep + 1) % 64 → ((s.pkg p).bole k).coll.opOf f.group = none →
      kind = 2 ∨ kind = 4 ∨ kind = 6 → Answers c s fun t =>
        ((t.pkg p).bole k).coll.arrived = rest ∧ ((t.pkg p).bole k).coll.tally = ((s.pkg p).bole k).coll.tally ++
          [{ group := f.group, epoch := f.epoch, kind := kind, srcX := f.srcX, srcY := f.srcY, word := f.word, data := f.data }])) ∧
  (∀ (p : PkgId) (k : BoleIx) (f : Eft) (rest : List Eft) (o : CollOp) (m : Nat × Nat) (s : State), s.boleUp p k →
    ((s.pkg p).bole k).coll.arrived = f :: rest → f.kind = 2 → ((s.pkg p).bole k).coll.opOf f.group = some o →
    o.group = f.group → o.opc = 0 → o.started = true → o.epoch = f.epoch → o.upSent = [] → o.down = [] → f.word = 0 →
    f.epoch = (((s.pkg p).bole k).coll.group f.group).epoch →
    (s.pkg p).childrenOf (s.env p) k (((s.pkg p).bole k).coll.group f.group) = [(f.srcX, f.srcY)] →
    (s.pkg p).parentOf (s.env p) k (((s.pkg p).bole k).coll.group f.group) ((s.pkg p).here k) = some m →
    (s.pkg p).tagOf k ≠ 0 →
    Answers (.arrive p k) s fun t => ∃ x, ((t.pkg p).bole k).coll.engQ =
        ((s.pkg p).bole k).coll.engQ ++ [(x, some (f.group, f.epoch))] ∧
      x.kind = 2 ∧ (x.dstX, x.dstY) = m ∧ (x.srcX, x.srcY) = (s.pkg p).here k ∧ x.group = f.group ∧ x.epoch = f.epoch) ∧
  (∀ (p : PkgId) (k : BoleIx) (f : Eft) (rest : List Eft) (o : CollOp) (s : State), s.memWf → s.boleUp p k →
    ((s.pkg p).bole k).coll.arrived = f :: rest → ((s.pkg p).bole k).coll.opOf f.group = some o → o.group = f.group →
    o.started = true → o.epoch = f.epoch → o.upSent.contains 0 = true → o.notify = 0 → o.record + 32 ≤ 0x600000 →
    f.epoch = (((s.pkg p).bole k).coll.group f.group).epoch →
    (s.pkg p).childrenOf (s.env p) k (((s.pkg p).bole k).coll.group f.group) = [] →
    let ends (t : State) (code : Nat) := ((t.pkg p).bole k).coll.opOf f.group = none ∧
      ((t.pkg p).bole k).coll.cnt.get 0 clDONE = min 4294967295 (((s.pkg p).bole k).coll.cnt.get 0 clDONE + 1) ∧
      ∀ i < 4, t.leafByte p k (o.record + i) =
        (leBytes 1 o.opc ++ leBytes 1 o.group ++ leBytes 1 o.epoch ++ leBytes 1 code).getD i 0
    (f.kind = 3 → o.opc = 0 → f.word = 0 → o.down = [] → Answers (.release p k) s fun t => ends t 0) ∧
    (f.kind = 5 → o.opc = 1 → o.n = 8 → f.word = 0 → o.down = [] → o.dst + 8 ≤ o.record →
      Answers (.redDown p k) s fun t => ends t 0 ∧
        ∀ i < 8, t.leafByte p k (o.dst + i) = BitVec.ofNat 8 (f.data.toNat / 256 ^ i)) ∧
    (∀ d, f.kind = 7 → o.opc = 2 → f.word = 1 → o.down = [(0, d)] → o.dst + 16 ≤ o.record →
      (s.pkg p).subRuns (s.env p) k (((s.pkg p).bole k).coll.group f.group) ((s.pkg p).here k) =
        [(((s.pkg p).chunkCtx k o).me, ((s.pkg p).chunkCtx k o).me)] →
      Answers (.scanDown p k) s fun t => ends t 0 ∧ ∀ i < 8, t.leafByte p k (o.dst + i) = BitVec.ofNat 8 (d.toNat / 256 ^ i) ∧
        t.leafByte p k (o.dst + 8 + i) = BitVec.ofNat 8 (f.data.toNat / 256 ^ i)))

/-- DERIVED (rests on R320 to R322, R329, R330, R339, R341, Table 13.9): launches, chunks and sheds. A good launch of a
bole-program executor advances the group's epoch and is counted; one for a group whose operation runs writes a record with
BAD_LAUNCH and changes no epoch; a waiting launch starts when its lane is free; a chunk that may start hands its pieces to
the lane; a shed ends the operation at its tick with its code in the record and disarms its trigger entries. -/
def Obligations.LaunchesChunksAndSheds : Prop :=
  (∀ (p : PkgId) (k : BoleIx) (lrec : List Byte) (s : State), s.memWf → s.boleUp p k → ((s.pkg p).bole k).running = true →
    let g := fld lrec 1 1 % 64
    let G := ((s.pkg p).bole k).coll.group g
    let o : CollOp := { group := g, lrec := padTo 64 lrec, epoch := G.epoch, launchNo := G.launches, started := false }
    (((s.pkg p).bole k).coll.opOf g = none → G.exec = true → (s.pkg p).launchGood k o = true →
      Answers (.clLaunchWrite p k lrec) s fun t => (((t.pkg p).bole k).coll.group g).epoch = (G.epoch + 1) % 64 ∧
        (((t.pkg p).bole k).coll.group g).launches = (G.launches + 1) % 4294967296 ∧
        ((t.pkg p).bole k).coll.cnt.get 0 clLAUNCH = min 4294967295 (((s.pkg p).bole k).coll.cnt.get 0 clLAUNCH + 1)) ∧
    (((s.pkg p).bole k).coll.opOf g ≠ none ∨ G.exec = false ∨ (s.pkg p).launchGood k o = false → o.notify = 0 →
      o.record + 32 ≤ 0x600000 → Answers (.clLaunchWrite p k lrec) s fun t =>
        s.stored t p k o.record (padTo 32 (leBytes 1 o.opc ++ leBytes 1 (fld o.lrec 1 1) ++ leBytes 1 G.epoch ++ leBytes 1 6 ++
          leBytes 8 0 ++ leBytes 6 (s.pkg p).tk.tickNum)) ∧ ((t.pkg p).bole k).coll = ((s.pkg p).bole k).coll)) ∧
  (∀ (p : PkgId) (k : BoleIx) (lane : Fin 8) (o : CollOp) (s : State), s.boleUp p k →
    (((s.pkg p).bole k).coll.laneHeld lane = false →
      (((s.pkg p).bole k).coll.ops.find? fun o => !o.started && decide ((((s.pkg p).bole k).coll.group o.group).lane = lane)) = some o →
      Answers (.launchDequeue p k lane) s fun t => ∀ x ∈ ((t.pkg p).bole k).coll.ops, x.group = o.group → x.started = true) ∧
    (((s.pkg p).bole k).coll.laneHeld lane = true → Answers (.launchDequeue p k lane) s fun t => (t.pkg p) = (s.pkg p))) ∧
  (∀ (p : PkgId) (k : BoleIx) (g : Fin 64) (o : CollOp) (i : Nat) (s : State), s.boleUp p k →
    ((s.pkg p).bole k).coll.opOf g = some o → o.started = true → (((s.pkg p).bole k).coll.group g).exec = false → o.group = g →
    3 ≤ o.opc → o.opc ≤ 7 → ((s.pkg p).chunkCtx k o).mine[o.chunks]? = some i →
    ((s.pkg p).mayStart k ((s.pkg p).chunkCtx k o) i = true →
      Answers (.chunkStart p k g) s fun t =>
        (4 ≤ o.opc → o.opc ≤ 6 →
          (((t.pkg p).bole k).coll.lane (((s.pkg p).bole k).coll.group g).lane).length =
            (((s.pkg p).bole k).coll.lane (((s.pkg p).bole k).coll.group g).lane).length + ((s.pkg p).chunkCtx k o).pieces i) ∧
        (o.opc = 3 ∨ o.opc = 7 → ((t.pkg p).bole k).ni.nextOpnum = (((s.pkg p).bole k).ni.nextOpnum + 1) % 2048)) ∧
    ((s.pkg p).mayStart k ((s.pkg p).chunkCtx k o) i = false →
      Answers (.chunkStart p k g) s fun t => (t.pkg p) = (s.pkg p))) ∧
  (∀ (p : PkgId) (k : BoleIx) (g : Fin 64) (o : CollOp) (s : State), s.memWf → s.boleUp p k →
    ((s.pkg p).bole k).coll.opOf g = some o → o.group = g → o.notify = 0 → o.record + 32 ≤ 0x600000 →
    let loss := (s.pkg p).collLoss k o
    (shedTick o.deadline loss ≤ (s.pkg p).tk.tickNum → Answers (.collShed p k g) s fun t =>
      ((t.pkg p).bole k).coll.opOf g = none ∧
      ((t.pkg p).bole k).coll.cnt.get 0 clSHED = min 4294967295 (((s.pkg p).bole k).coll.cnt.get 0 clSHED + 1) ∧
      (∀ i < 4, t.leafByte p k (o.record + i) = (leBytes 1 o.opc ++ leBytes 1 o.group ++ leBytes 1 o.epoch ++
        leBytes 1 (shedCode o.deadline loss)).getD i 0) ∧
      ∀ j, (((t.pkg p).bole k).coll.trig.get {} j).group = o.group → (((t.pkg p).bole k).coll.trig.get {} j).epoch = o.epoch →
        (((t.pkg p).bole k).coll.trig.get {} j).v = false) ∧
    ((s.pkg p).tk.tickNum < shedTick o.deadline loss → Answers (.collShed p k g) s fun t => (t.pkg p) = (s.pkg p)))

/-- DERIVED (rests on R315, R334, R335, R338, R477, Tables 18.12 and 18.13; what an action descriptor holds is the opaque
Config.trigDesc, log 5): counters, triggers, group records and notices. A counter saturates; in a cycle in which no entry
has just been armed (R476) an armed entry whose counter has reached its threshold fires once and is disarmed, any other
stays; an action that fired in an earlier cycle leaves the queue and is carried out; a
group record is written at once, or when the operation that runs has ended; a loss notice stands first among the eight of
every NI of the glade. -/
def Obligations.CountersTriggersAndGroups : Prop :=
  (∀ (p : PkgId) (k : BoleIx) (j : Fin 256) (v : BitVec 32) (s : State), s.boleUp p k →
    (((s.pkg p).bole k).running = true → Answers (.clCtrAdd p k j v) s fun t =>
      ((t.pkg p).bole k).coll.ctr.get 0 j = min 4294967295 (((s.pkg p).bole k).coll.ctr.get 0 j + v.toNat) ∧
      ∀ i, i ≠ j.val → ((t.pkg p).bole k).coll.ctr.get 0 i = ((s.pkg p).bole k).coll.ctr.get 0 i) ∧
    (Answers (.clCtrReset p k j) s fun t => ((t.pkg p).bole k).coll.ctr.get 0 j = 0 ∧
      ∀ i, i ≠ j.val → ((t.pkg p).bole k).coll.ctr.get 0 i = ((s.pkg p).bole k).coll.ctr.get 0 i)) ∧
  (∀ (p : PkgId) (k : BoleIx) (s : State), s.boleUp p k →
    let c := ((s.pkg p).bole k).coll
    c.trigQ.length + c.fired.length + c.trig.length ≤ 32 → c.fired = [] ∨ c.firedAt < s.now → c.armedNow s.now = false →
    Answers (.triggerFire p k) s fun t =>
      let d := ((t.pkg p).bole k).coll
      d.trigQ = c.trigQ ++ c.fired ∧ d.ctr = c.ctr ∧
      ∀ j, ((c.trig.get {} j).v = true → (c.trig.get {} j).thresh ≤ c.ctr.get 0 (c.trig.get {} j).ctr →
          (d.trig.get {} j).v = false ∧ c.trig.get {} j ∈ d.fired) ∧
        ((c.trig.get {} j).v = false ∨ c.ctr.get 0 (c.trig.get {} j).ctr < (c.trig.get {} j).thresh →
          d.trig.get {} j = c.trig.get {} j)) ∧
  (∀ (p : PkgId) (k : BoleIx) (x : Trig) (rest : List Trig) (s : State), s.memWf → s.boleUp p k →
    ((s.pkg p).bole k).coll.trigQ ++ ((s.pkg p).bole k).coll.fired = x :: rest →
    ((s.pkg p).bole k).coll.fired = [] ∨ ((s.pkg p).bole k).coll.firedAt < s.now →
    let d := Config.trigDesc x.act ((List.range 64).map fun i => s.leafByte p k (x.desc + i))
    (x.act = 6 → d.chain = none → Answers (.triggerActionRun p k) s fun t => ((t.pkg p).bole k).coll.trigQ = rest ∧
      ((t.pkg p).bole k).coll.ctr.get 0 (d.ctr % 256) =
        min 4294967295 (((s.pkg p).bole k).coll.ctr.get 0 (d.ctr % 256) + d.value.toNat % 4294967296)) ∧
    (x.act = 5 → d.addr + 8 ≤ 0x600000 → Answers (.triggerActionRun p k) s fun t => ((t.pkg p).bole k).coll.trigQ = rest ∧
      s.stored t p k d.addr (leBytes 8 d.value.toNat)) ∧
    (x.act = 0 ∨ x.act = 3 → (s.pkg p).tagOf k ≠ 0 → (x.act = 0 → 1 ≤ d.push.len ∧ d.push.granules ≤ 32) →
      (s.pkg p).pushFault k { d.push with op := if x.act = 0 then .write else .signal }
        ({ d.push with op := if x.act = 0 then .write else .signal } : Push).granules = none →
      Answers (.triggerActionRun p k) s fun t => ((t.pkg p).bole k).coll.trigQ = rest ∧
        (((t.pkg p).bole k).ni.q.get [] 0).length = (((s.pkg p).bole k).ni.q.get [] 0).length + 1)) ∧
  (∀ (p : PkgId) (k : BoleIx) (j : Fin 512) (v : BitVec 128) (s : State), s.boleUp p k →
    Answers (.clTrigWrite p k j v) s fun t => ((t.pkg p).bole k).coll.trig.get {} j =
      { v := bitAt v.toNat 0, ctr := v.toNat / 256 % 256, act := v.toNat / 65536 % 16, lane := v.toNat / 1048576 % 8,
        group := v.toNat / 4294967296 % 64, epoch := v.toNat / 274877906944 % 64, thresh := v.toNat / 2 ^ 64 % 4294967296,
        desc := 64 * (v.toNat / 2 ^ 102 % 131072), since := some s.now }) ∧
  (∀ (p : PkgId) (k : BoleIx) (g : Fin 64) (v : BitVec 256) (s : State), s.boleUp p k →
    (((s.pkg p).bole k).coll.opOf g = none → Answers (.clGroupWrite p k g v) s fun t =>
      ((t.pkg p).bole k).coll.group g = (((s.pkg p).bole k).coll.group g).write v.toNat ∧
      (((t.pkg p).bole k).coll.group g).epoch = (((s.pkg p).bole k).coll.group g).epoch) ∧
    (((s.pkg p).bole k).coll.opOf g ≠ none → Answers (.clGroupWrite p k g v) s fun t =>
      ((t.pkg p).bole k).coll.group g = { ((s.pkg p).bole k).coll.group g with held := some v } ∧
      (((t.pkg p).bole k).coll.drop g).group g =
        { (((s.pkg p).bole k).coll.group g).write v.toNat with held := none })) ∧
  (∀ (p : PkgId) (tag r : Nat) (ab : Bool) (s : State), (s.pkg p).live = true → (s.pkg p).bolesOfTag tag ≠ [] →
    Answers (.loss p tag r ab) s fun t => (∀ k ∈ (s.pkg p).bolesOfTag tag,
        ((t.pkg p).bole k).coll.loss = (lossWord tag r ab :: ((s.pkg p).bole k).coll.loss).take 8) ∧
      ((t.pkg p).fn ((s.pkg p).fnOfTag tag)).funcLeaf = ((s.pkg p).fn ((s.pkg p).fnOfTag tag)).funcLeaf ||| 16)

/-! ### Chapter 14: links -/

/-- DERIVED (rests on R349, R350, R351, R355, R356, R357, R370, R492, R375): a link frame. A bad one passes nothing on, is
counted, and asks for a replay; a good data frame that is expected advances the expected SEQ by one modulo 4,096, releases
what its ACK covers, and lands its link flits behind those that stand in the receive regions; a good one with another SEQ is
counted and passes nothing on; a good null frame asks for a replay exactly when its SEQ is not one less than the expected
one; the control item of a good header is carried out with its frame (log 42). Nothing but the link changes, unless the
frame brings a tick-sync eft, or a scheduled flit of a window that is over, which its NI counts (R374, R206; log 41). -/
def Obligations.LinkFramesAreAcceptedInOrder : Prop :=
  ∀ (p : PkgId) (l : LinkIx) (fr : LinkFrame) (unc : Bool) (corr uncorr : Nat) (s : State), s.linkUp p l →
    let L := (s.pkg p).link l
    let b := parseBody ((s.pkg p).comm.owner.get 0 l) 32 (L.part ++ padTo 1016 fr.body)
    let good := unc = false ∧ fr.fcrc = fr.crc
    let fits := fr.ctl < 4 ∧ fr.rsv = 0
    let count (t : State) (j n : Nat) := ((t.pkg p).link l).cnt.get 0 j = min 4294967295 (L.cnt.get 0 j + n)
    Answers (.linkFrameReceive p l fr unc corr uncorr) s fun t =>
      let L' := (t.pkg p).link l
      let late (f : SchedFlit) := f.win2 ≠ (s.pkg p).tk.tickNum % 4
      (fr.seq ≠ L.expSeq ∨ (∀ x ∈ b.items, (∀ f, x = .flit f → f.tickSync = false) ∧ ∀ f, x = .sched f → ¬late f) →
        s.onlyLink t p l) ∧
      count t lkFECCORR corr ∧ count t lkFECUNCORR uncorr ∧
      (¬good → L'.expSeq = L.expSeq ∧ L'.rx = L.rx ∧ L'.rxSched = L.rxSched ∧ L'.replayBuf = L.replayBuf ∧ L'.part = L.part ∧
        L'.partnerOff = L.partnerOff ∧ L'.wantReplay = true ∧ count t lkFRAMEBAD 1) ∧
      (good → ¬fits → L'.expSeq = L.expSeq ∧ L'.rx = L.rx ∧ L'.rxSched = L.rxSched ∧ L'.replayBuf = L.replayBuf ∧
        L'.part = L.part ∧ L'.wantReplay = true ∧ count t lkFRAMEBAD 1 ∧
        (fr.seq = L.expSeq → L.bad492 = 7 → L'.train = .lock ∧ L'.fast = true)) ∧
      (good → fits → fr.null = false → fr.seq = L.expSeq → b.bad = true →
        L'.expSeq = L.expSeq ∧ L'.rx = L.rx ∧ L'.rxSched = L.rxSched ∧ L'.wantReplay = true ∧ count t lkFRAMEBAD 1) ∧
      (good → fits → fr.null = false → fr.seq = L.expSeq → b.bad = false →
        L'.expSeq = (L.expSeq + 1) % 4096 ∧ L'.wantReplay = false ∧ L'.replayBuf = ackBuf fr.ack L.replayBuf ∧ L'.part = b.rest ∧
        L'.rxSched = L.rxSched ++ b.items.filterMap (fun x => match x with
          | .sched f => if f.win2 = (s.pkg p).tk.tickNum % 4 then some f else none
          | .flit _ => none) ∧
        (∀ ch < 8, L'.partnerOff.get false ch = !bitAt fr.onoff ch) ∧
        (∀ ch, L.rx.get [] ch <+: L'.rx.get [] ch) ∧
        ∀ f h, b.items = [.flit f] → f.hdr = .head h → f.tickSync = false → (s.pkg p).ingressOk (s.env p) l h = true →
          L.regionFree (2 * f.vn + f.vc) ≠ 0 →
          L'.rx.get [] (2 * f.vn + f.vc) = L.rx.get [] (2 * f.vn + f.vc) ++ [f]) ∧
      (good → fits → fr.null = false → fr.seq ≠ L.expSeq →
        L'.expSeq = L.expSeq ∧ L'.rx = L.rx ∧ L'.rxSched = L.rxSched ∧ L'.wantReplay = L.wantReplay ∧
        L'.replayBuf = ackBuf fr.ack L.replayBuf ∧ count t lkOOO 1) ∧
      (good → fits → fr.null = true → L'.expSeq = L.expSeq ∧ L'.rx = L.rx ∧ L'.rxSched = L.rxSched ∧
        L'.replayBuf = ackBuf fr.ack L.replayBuf ∧
        L'.wantReplay = (L.wantReplay || decide ((fr.seq + 1) % 4096 ≠ L.expSeq)) ∧
        (fr.ctl = 1 → L.replayAt = none → (∃ f ∈ ackBuf fr.ack L.replayBuf, f.seq = fr.cdata % 4096) →
          L'.replayPos = some (fr.cdata % 4096)) ∧
        (fr.ctl = 3 → L'.train = .lock ∧ L'.fast = true))

/-- DERIVED (rests on R200, R356 to R359, R362 to R367, R371 to R374): the sender, HOLD and the twig lane. A frame sent
carries the SEQ before the expected one as its ACK and its own FCRC; a new data frame takes the next SEQ and an entry of the
replay buffer, of which at most 256 fill; a replayed frame with a scheduled flit waits for the reserved cycles of its link
entry (R200); a replay starts at its ESEQ, and at most once in LK_RTT; the eighth replay of one ESEQ retrains the link; a
HOLD holds its network for HT times 8 ns, one with HT 0 ends the hold, one for VN3 is counted and ignored, and a hold of
8,192 ns ends and is counted; the lane delivers an eft in order and once, and keeps what it sends. -/
def Obligations.LinkSendersHoldsAndLanes : Prop :=
  ∀ (p : PkgId) (l : LinkIx) (s : State), s.linkUp p l →
    let L := (s.pkg p).link l
    let count (t : State) (j n : Nat) := ((t.pkg p).link l).cnt.get 0 j = min 4294967295 (L.cnt.get 0 j + n)
    (Answers (.linkFrameSend p l) s fun t =>
      let plain := syncBegins 1016 L.asmItems = false
      let waits := (s.pkg p).schedWaits (s.env p) l
      (plain → L.syncSeqs = [] → s.onlyLink t p l) ∧
      let L' := (t.pkg p).link l
      L'.expSeq = L.expSeq ∧ (L.replayBuf.length ≤ 256 → L'.replayBuf.length ≤ 256) ∧
      (L.replayPos = none → L.asm ≠ [] → L.replayBuf.length < 256 → L'.nextSeq = (L.nextSeq + 1) % 4096 ∧
        (L'.replayBuf.getLast?).map (fun f => f.seq) = some L.nextSeq ∧ L'.replayBuf.dropLast = L.replayBuf ∧
        (plain → (L'.replayBuf.getLast?).map (fun f => f.body) = some (padTo 1016 L.asm) ∧ L'.asm = L.asm.drop 1016)) ∧
      (L.replayPos = none → L.asm = [] ∨ 256 ≤ L.replayBuf.length →
        L'.nextSeq = L.nextSeq ∧ L'.replayBuf = L.replayBuf ∧ (L'.tx).map (fun f => f.null) = some true) ∧
      (∀ f rest, L.replayBuf = f :: rest → L.replayPos = some f.seq → L'.nextSeq = L.nextSeq ∧ L'.replayBuf = L.replayBuf ∧
        (waits = false ∨ L.schedSeqs.contains f.seq = false → (L'.tx).map (fun g => (g.seq, g.body)) = some (f.seq, f.body)) ∧
        (waits = true → L.schedSeqs.contains f.seq = true → (L'.tx).map (fun g => g.null) = some true ∧
          L'.replayPos = some f.seq)) ∧
      ∀ f, L'.tx = some f → f.ack = (L.expSeq + 4095) % 4096 ∧ f.fcrc = f.crc ∧
        (L.holdTx = [] → f.ctl = (if L.wantReplay then 1 else 0) ∧ (L.wantReplay = true → f.cdata = L.expSeq))) ∧
    (∀ eseq, Answers (.replayRequest p l eseq) s fun t =>
      if (∃ f ∈ L.replayBuf, f.seq = eseq) ∧ ∀ a, L.replayAt = some a → a + L.rtt ≤ s.now then
        ((t.pkg p).link l).replayPos = some eseq ∧ ((t.pkg p).link l).replayAt = some s.now ∧
        ((t.pkg p).link l).replayBuf = L.replayBuf ∧ count t lkREPLAY 1
      else t = s.setPkg p ((s.pkg p).updLink l id)) ∧
    (Answers (.replayLimit p l) s fun t => ((t.pkg p).link l).replayBuf = L.replayBuf ∧
      ((t.pkg p).link l).expSeq = L.expSeq ∧ (8 ≤ L.replays ↔ ((t.pkg p).link l).train ≠ .active)) ∧
    (∀ (vn : Fin 4) (ht : Fin 256) (hid : Fin 4), Answers (.hold p l vn ht hid) s fun t =>
      let h := L.hold.get {} vn
      let h' := ((t.pkg p).link l).hold.get {} vn
      (h.lastHid = some (hid : Nat) → h' = h ∧ ((t.pkg p).link l).cnt = L.cnt) ∧
      ((vn : Nat) = 3 → h.lastHid ≠ some (hid : Nat) → h'.until_ = h.until_ ∧ count t lkHOLDBAD 1) ∧
      ((vn : Nat) ≠ 3 → h.lastHid ≠ some (hid : Nat) →
        ((ht : Nat) = 0 → h'.until_ = none ∧ (h.until_ = none → count t lkHOLDZERO 1)) ∧
        ((ht : Nat) ≠ 0 → s.now < h.ignore → h'.until_ = h.until_ ∧ h'.start = h.start) ∧
        ((ht : Nat) ≠ 0 → h.ignore ≤ s.now → h'.until_ = some (s.now + 12 * ht) ∧ h'.start = h.start ∧ count t lkHOLDRX 1))) ∧
    (∀ (vn : Fin 4) (e : Nat), (L.hold.get {} vn).until_ = some e → (L.hold.get {} vn).wait = 0 →
      Answers (.holdExpire p l vn) s fun t =>
        (((t.pkg p).link l).hold.get {} vn).until_ = (if e ≤ s.now then none else some e)) ∧
    (∀ (vn : Fin 4) (e : Nat), (L.hold.get {} vn).start = some e → e + 12288 ≤ s.now →
      Answers (.holdOverrun p l vn) s fun t => (((t.pkg p).link l).hold.get {} vn).until_ = none ∧
        (((t.pkg p).link l).hold.get {} vn).ignore = s.now + 12288 ∧ count t lkHOLDBAD 1 ∧
        ((t.pkg p).fn 0).pkgLeaf &&& pkHoldOverrun = pkHoldOverrun) ∧
    (∀ (vn : Fin 4) (ht : Fin 256), Answers (.lkHoldTx p l vn ht) s fun t =>
      ((t.pkg p).link l).holdTx = L.holdTx ++
        (if (vn : Nat) = 3 then [] else [{ vn := vn, ht := ht, hid := L.hidNext, copies := 3, gap := 0 }]) ∧
      ((vn : Nat) ≠ 3 → ((t.pkg p).link l).hidNext = (L.hidNext + 1) % 4)) ∧
    (∀ fr : LaneFrame, Answers (.twigLaneFrame p l fr) s fun t =>
      let N := L.lane
      let N' := ((t.pkg p).link l).lane
      (fr.eft.kind ≠ 9 → s.onlyLink t p l) ∧
      (fr.lcrc ≠ fr.crc → N'.expSeq = N.expSeq ∧ N'.rx = N.rx ∧ N'.wantReplay = true ∧ count t lkFRAMEBAD 1) ∧
      (fr.lcrc = fr.crc → fr.kind = 1 → fr.seq ≠ N.expSeq → N'.expSeq = N.expSeq ∧ N'.rx = N.rx ∧ count t lkOOO 1) ∧
      (fr.lcrc = fr.crc → fr.kind = 1 → fr.seq = N.expSeq →
        N'.expSeq = (N.expSeq + 1) % 32 ∧ N'.wantReplay = false ∧
        (fr.eft.kind ≠ 9 → (N.rx.get [] ((s.pkg p).laneVc l fr.eft)).length < 32 →
          N'.rx.get [] ((s.pkg p).laneVc l fr.eft) = N.rx.get [] ((s.pkg p).laneVc l fr.eft) ++ [fr.eft]))) ∧
    (Answers (.twigLaneFrameSend p l) s fun t =>
      let N := L.lane
      let N' := ((t.pkg p).link l).lane
      ((∀ f ∈ N.out, f.kind ≠ 9) → (∀ x ∈ N.replayBuf, x.2.kind ≠ 9) → s.onlyLink t p l) ∧
      N'.expSeq = N.expSeq ∧ N'.rx = N.rx ∧ (N.replayBuf.length ≤ 24 → N'.replayBuf.length ≤ 24) ∧ N.replayBuf <+: N'.replayBuf ∧
      (∀ f, N'.tx = some f → f.ack = (N.expSeq + 31) % 32 ∧ f.lcrc = f.crc) ∧
      ∀ f fs, N.out = f :: fs → N.wantReplay = false → N.replayPos = none → N.replayBuf.length < 24 →
        N'.out = fs ∧ N'.nextSeq = (N.nextSeq + 1) % 32 ∧ N'.replayBuf = N.replayBuf ++ [(N.nextSeq, f)] ∧
        (N'.tx).map (fun g => (g.kind, g.seq, g.eft)) =
          some (1, N.nextSeq, if f.kind = 9 then { f with data := BitVec.ofNat 64 ((s.pkg p).tk.count s.now) } else f))

/-- DERIVED (rests on R134, R361, R368 to R371, R455): training. Every training and retraining row keeps the replay buffer,
the next SEQ and the receiver's expected SEQ; each state's row leads to the next state; the named partner is admitted and
another is reported; LK_RTT above 1,696 keeps the link out of ACTIVE; on reaching ACTIVE the sender resumes at the partner's
ESEQ; a failed full train, three of them, and LK_CTRL.DISABLE leave the link untrained. -/
def Obligations.LinkTraining : Prop :=
  ∀ (p : PkgId) (l : LinkIx) (s : State), (s.pkg p).live = true →
    let L := (s.pkg p).link l
    let keeps (t : State) := ((t.pkg p).link l).replayBuf = L.replayBuf ∧ ((t.pkg p).link l).nextSeq = L.nextSeq ∧
      ((t.pkg p).link l).expSeq = L.expSeq
    let may := L.down = false ∧ L.disable = false
    (Answers (.linkDetect p l) s fun t => keeps t ∧ (may → L.train = .detect → ((t.pkg p).link l).train = .equalise)) ∧
    (Answers (.linkEqualise p l) s fun t => keeps t ∧ (may → L.train = .equalise → ((t.pkg p).link l).train = .lock)) ∧
    (Answers (.linkLock p l) s fun t => keeps t ∧ (may → L.train = .lock → ((t.pkg p).link l).train = .ident)) ∧
    (∀ id : Ident, Answers (.linkIdent p l id) s fun t => keeps t ∧
      (L.train = .ident → L.fast = false → identPlace id = (s.pkg p).farEnd (s.env p) l →
        ((t.pkg p).link l).train = .measure ∧ ((t.pkg p).link l).admitted = true ∧ ((t.pkg p).link l).partner = some id ∧
        ((t.pkg p).link l).miscabled = false) ∧
      (L.train = .ident → L.fast = false → identPlace id ≠ (s.pkg p).farEnd (s.env p) l →
        ((t.pkg p).link l).train = .ident ∧ ((t.pkg p).link l).admitted = false ∧ ((t.pkg p).link l).miscabled = true ∧
        ((t.pkg p).fn 0).pkgLeaf &&& pkMiscabled = pkMiscabled ∧
        (L.miscabled = false → (t.stand (p / 64)).alarms = (s.stand (p / 64)).alarms ++ [.miscabled (p % 64) l]))) ∧
    (∀ rtt probe, Answers (.linkMeasure p l rtt probe) s fun t => keeps t ∧
      (L.train = .measure → rtt < 2048 → ((t.pkg p).link l).rtt = rtt ∧ ((t.pkg p).link l).skid = rtt + 32 ∧
        (((t.pkg p).link l).tooLong = true ↔ 1696 < rtt) ∧ (((t.pkg p).link l).okNext = true ↔ rtt ≤ 1696) ∧
        ((s.pkg p).linkInter (s.env p) l = false → ((t.pkg p).link l).fibre = 0) ∧
        ∀ id c, (s.pkg p).linkInter (s.env p) l = true → L.partner = some id → probe = 900 + id.turnaround + 2 * c → c < 65536 →
          ((t.pkg p).link l).fibre = c)) ∧
    (Answers (.linkActive p l) s fun t => keeps t ∧
      (L.train = .measure → L.okNext = false → ((t.pkg p).link l).train = .measure) ∧
      (∀ id, L.train = .measure ∨ (L.fast = true ∧ L.train = .ident) → L.okNext = true → L.partner = some id →
        ((t.pkg p).link l).train = .active ∧
        ((t.pkg p).link l).replayPos = if L.replayBuf.any (fun f => f.seq == id.eseq) then some id.eseq else none)) ∧
    (Answers (.fastRetrain p l) s fun t => keeps t ∧ (L.train = .active → ((t.pkg p).link l).train = .lock ∧
      ((t.pkg p).link l).fast = true ∧ ((t.pkg p).link l).eventWin = true ∧
      ((t.pkg p).link l).cnt.get 0 lkRETRAIN = min 4294967295 (L.cnt.get 0 lkRETRAIN + 1))) ∧
    (Answers (.lkRetrain p l) s fun t => keeps t ∧ (L.train = .active → ((t.pkg p).link l).train = .lock)) ∧
    (Answers (.fullTrain p l) s fun t => keeps t ∧
      (may → L.fast = true → L.failFast = 3 → ((t.pkg p).link l).train = .detect ∧ ((t.pkg p).link l).fast = false)) ∧
    (Answers (.linkDown p l) s fun t => keeps t ∧
      (L.failFull = 3 → L.down = false → ((t.pkg p).link l).down = true ∧
        ((t.pkg p).fn 0).pkgLeaf &&& pkLinkDown = pkLinkDown)) ∧
    (Answers (.lkFulltrain p l) s fun t => keeps t ∧ ((t.pkg p).link l).down = false ∧
      (L.disable = false → ((t.pkg p).link l).train = .detect)) ∧
    (∀ dis : Bool, Answers (.lkDisable p l dis) s fun t => keeps t ∧ ((t.pkg p).link l).disable = dis ∧
      (dis = true → ((t.pkg p).link l).train = .detect))

/-! ### Chapter 15: the host interface -/

/-- DERIVED (rests on R387, R388, R391 to R393, R397, R404, R406, Table 15.12): doorbells, fetches, host reads and
FN_RING_CTRL. A nudge of a ring that is IDLE or RUNNING reads its record once, however many come while the read is out, and
one of any other ring is counted; TAIL_SEEN takes the TAIL of a good record that does not overfill the ring, and any other
record is counted; the descriptors of a fetch join the ring under their numbers, at most eight in execution; a read that
ends gives its bytes or its failure to its descriptor alone and frees its tag, and a late completion is counted; EN with a
base or a size out of its range is ignored with BADCFG. -/
def Obligations.DoorbellsFetchesAndReads : Prop :=
  (∀ (p : PkgId) (f : FnIx) (r : RingIx) (s : State), s.fnUp p f →
    let R := (s.pkg p).ring f r
    (R.st = .idle ∨ R.st = .running →
      (R.recOut = true → Answers (.fnNudge p f (BitVec.ofNat 32 (2 ^ r.val))) s fun t =>
        (t.pkg p).ring f r = { R with recMore := true } ∧ (t.pkg p).rt = (s.pkg p).rt) ∧
      (R.recOut = false → (s.pkg p).issues f = true → (s.pkg p).readRoom f = true → (s.pkg p).rt.readWait = [] →
        Answers (.fnNudge p f (BitVec.ofNat 32 (2 ^ r.val))) s fun t => (t.pkg p).ring f r = { R with recOut := true } ∧
          (t.pkg p).rt.reads = (s.pkg p).rt.reads ++
            [{ tag := (s.pkg p).freeTag, fn := f, addr := R.dbr, len := 16, what := .record r }] ∧
          (t.pkg p).rt.tlps = (s.pkg p).rt.tlps ++ [.memRd f R.dbr 16 (s.pkg p).freeTag false])) ∧
    (R.st = .disabled ∨ R.st = .quiesced ∨ R.st = .stopped →
      Answers (.fnNudge p f (BitVec.ofNat 32 (2 ^ r.val))) s fun t => (t.pkg p).ring f r = R ∧ (t.pkg p).rt = (s.pkg p).rt ∧
        ((t.pkg p).fn f).cntNudgeIgn.live = min 4294967295 (((s.pkg p).fn f).cntNudgeIgn.live + 1))) ∧
  (∀ (p : PkgId) (f : FnIx) (r : RingIx) (tail ntail : BitVec 32) (x : HostRead) (s : State), s.fnUp p f →
    (s.pkg p).readOf f (.record r) = some x →
    let R := (s.pkg p).ring f r
    R.st = .idle ∨ R.st = .running → Answers (.doorbellRecord p f r tail ntail) s fun t =>
      ((t.pkg p).ring f r).head = R.head ∧
      (ntail = ~~~tail → subMod (2 ^ 32) tail.toNat R.head ≤ 2 ^ R.log2size →
        ((t.pkg p).ring f r).tailSeen = tail.toNat ∧
        ((t.pkg p).ring f r).st = (if R.head = tail.toNat then .idle else .running) ∧
        ((t.pkg p).fn f).cntBadDb = ((s.pkg p).fn f).cntBadDb) ∧
      (ntail ≠ ~~~tail ∨ 2 ^ R.log2size < subMod (2 ^ 32) tail.toNat R.head →
        ((t.pkg p).ring f r).tailSeen = R.tailSeen ∧ ((t.pkg p).ring f r).st = R.st ∧
        ((t.pkg p).fn f).cntBadDb.live = min 4294967295 (((s.pkg p).fn f).cntBadDb.live + 1))) ∧
  (∀ (p : PkgId) (f : FnIx) (r : RingIx) (ds : List (List Byte)) (x : HostRead) (s : State), s.fnUp p f →
    (s.pkg p).readOf f (.fetch r) = some x →
    let R := (s.pkg p).ring f r
    Answers (.descriptorFetch p f r ds) s fun t =>
      let R' := (t.pkg p).ring f r
      R'.fetchPos = (R.fetchPos + R.fetchLen) % 2 ^ 32 ∧ R'.head = R.head ∧ (R.exec.length ≤ 8 → R'.exec.length ≤ 8) ∧
      ∀ i < R.fetchLen, ∃ d ∈ R'.waiting ++ R'.exec ++ R'.ended,
        d.n = (R.fetchPos + i) % 2 ^ 32 ∧ d.bytes = padTo 64 (ds.getD i [])) ∧
  (∀ (p : PkgId) (f : FnIx) (r : RingIx) (x : HostRead) (d : Desc) (off : Nat) (st : CplStatus) (data : List Byte) (s : State),
    (s.pkg p).live = true → (s.pkg p).readTagged x.tag = some x → x.fn = f → x.what = .data r d.n off →
    ((s.pkg p).ring f r).exec = [d] → (s.pkg p).rt.readWait = [] →
    (Answers (.hostReadCompletion p x.tag st data) s fun t => ((t.pkg p).ring f r).exec =
        [{ d with left := d.left - 1, status := mergeStatus d.status (failStatus (some st)),
                  got := if st = .ok ∨ st = .ep then d.got ++ [(off, padTo x.len data, decide (st = .ep))] else d.got }] ∧
      (t.pkg p).rt.reads = (s.pkg p).rt.reads.filter (fun y => y.tag != x.tag) ∧ s.sameMemory t) ∧
    (Answers (.hostReadTimeout p x.tag) s fun t => ((t.pkg p).ring f r).exec =
        [{ d with left := d.left - 1, status := mergeStatus d.status 4 }] ∧
      (t.pkg p).rt.reads = (s.pkg p).rt.reads.filter (fun y => y.tag != x.tag) ∧ s.sameMemory t)) ∧
  (∀ (p : PkgId) (tag : Nat) (st : CplStatus) (data : List Byte) (s : State), (s.pkg p).live = true →
    (s.pkg p).readTagged tag = none →
    (Answers (.hostReadCompletion p tag st data) s fun t =>
      (t.pkg p).rt.cntLate.live = min 4294967295 ((s.pkg p).rt.cntLate.live + 1) ∧ s.sameMemory t) ∧
    Answers (.hostReadTimeout p tag) s fun t => t.pkg p = s.pkg p) ∧
  (∀ (p : PkgId) (f : FnIx) (r : RingIx) (v : BitVec 32) (s : State), s.fnUp p f →
    let R := (s.pkg p).ring f r
    (((s.pkg p).fn f).lock = true → Answers (.ringEnable p f r v) s fun t => t.pkg p = s.pkg p) ∧
    (((s.pkg p).fn f).lock = false → bitAt v.toNat 8 = true → R.goodSetup (v.toNat % 32) = false →
      Answers (.ringEnable p f r v) s fun t => (t.pkg p).ring f r = R ∧ ((t.pkg p).fn f).badCfg = true) ∧
    (((s.pkg p).fn f).lock = false → bitAt v.toNat 8 = true → R.goodSetup (v.toNat % 32) = true → R.st = .disabled →
      (s.pkg p).mapped f r = true → Answers (.ringEnable p f r v) s fun t => ((t.pkg p).ring f r).en = true ∧
        ((t.pkg p).ring f r).log2size = v.toNat % 32 ∧ ((t.pkg p).ring f r).poll = bitAt v.toNat 9 ∧
        ((t.pkg p).ring f r).st = if R.head = R.tailSeen then .idle else .running))

/-- DERIVED (rests on R67, R395, R396, R398 to R400, R407, R408, R436, R478, Tables 15.8 to 15.11): what the descriptors do,
each ending its row's descriptor with the status of Table 15.11. COPY_IN and FILL store their bytes and no others; COPY_OUT
issues what stands in the device; a transfer that the crossbar turns away ends with address error (R67); SCHED_LOAD writes a
standby bank and refuses the active one; NI_WRITE writes its registers; COLL_GROUP and COLL_LAUNCH reach the members;
BOLE_RUN starts and stops a program, and is refused in bring-up; WAIT holds until its counter meets THRESH; ABORT ends OK
and starts the abort; a target in reset gives TARGET_RESET; the entry of the descriptor at HEAD leaves as two writes, bytes
8 to 15 first, and HEAD advances. -/
def Obligations.DescriptorsAreCarriedOut : Prop :=
  (∀ (p : PkgId) (f : FnIx) (r : RingIx) (n : BitVec 32) (d : Desc) (s : State), s.memWf → s.soleDesc p f r d → d.n = n.toNat →
    let up := (s.pkg p).up d.bole = true
    let lets := (s.pkg p).rootRefused f d = false
    let ok (t : State) := s.descEnds t p f r d 0 0
    let down (t : State) := s.descEnds t p f r d 3 0
    (d.op = 0 → Answers (.nop p f r n) s fun t => ok t ∧ s.sameMemory t) ∧
    (∀ c, (c, d.op) ∈ [(.copyIn p f r n, 1), (.copyOut p f r n, 2), (.fill p f r n, 3)] → up → ¬lets →
      Answers c s fun t => s.descEnds t p f r d 1 0) ∧
    (d.op = 1 → up → lets → ∀ bs, d.got = [(0, bs, false)] → Answers (.copyIn p f r n) s fun t => ok t ∧
      s.stored t p d.bole d.loc bs) ∧
    (d.op = 1 → ¬up → lets → Answers (.copyIn p f r n) s down) ∧
    (d.op = 2 → up → lets → splitAll ((s.pkg p).fn f).mps d.haddr d.len = [(d.haddr, d.len)] → (s.pkg p).memOk d.bole d.loc d.len = true →
      Answers (.copyOut p f r n) s fun t => ∃ bad,
        s.descEnds t p f r d (if bad then 7 else 0) 0 ∧ s.sameMemory t ∧
        (s.pkg p).rt.tlps ++ [.memWr f d.haddr ((List.range d.len).map fun i => s.localByte p d.bole (d.loc + i))
          ((s.pkg p).fn f).relax bad] <+: (t.pkg p).rt.tlps) ∧
    (d.op = 2 → ¬up → lets → Answers (.copyOut p f r n) s fun t => down t ∧ s.sameMemory t) ∧
    (d.op = 3 → up → lets → Answers (.fill p f r n) s fun t => ok t ∧ s.stored t p d.bole d.loc
      ((List.range d.len).map fun i => BitVec.ofNat 8 (fld d.bytes (32 + (d.loc + i) % 8) 1))) ∧
    (d.op = 3 → ¬up → lets → Answers (.fill p f r n) s down) ∧
    (d.op = 4 → let hdr := SchedHdr.ofValue (fld d.image 0 8)
      let S := ((s.pkg p).bole d.bole).sched
      (d.len ≠ 16 + 8 * hdr.entries → Answers (.schedLoad p f r n) s fun t => s.descEnds t p f r d 2 24 ∧
        ((t.pkg p).bole d.bole).sched = S) ∧
      (up → d.len = 16 + 8 * hdr.entries → hdr.entries ≤ bankLen (d.b28 + 1) → S.bankActive (d.b28 + 1) = true →
        Answers (.schedLoad p f r n) s fun t => s.descEnds t p f r d 8 0 ∧ ((t.pkg p).bole d.bole).sched = S) ∧
      (up → d.b28 ≤ 2 → d.len = 16 + 8 * hdr.entries → hdr.entries ≤ bankLen (d.b28 + 1) → S.bankActive (d.b28 + 1) = false →
        Answers (.schedLoad p f r n) s fun t => ok t ∧
          let S' := ((t.pkg p).bole d.bole).sched
          S'.hdr (d.b28 + 1) = hdr ∧
          (∀ i < bankLen (d.b28 + 1), S'.entries.get 0 (bankBase (d.b28 + 1) + i) =
            if i < hdr.entries then BitVec.ofNat 64 (fld d.image (16 + 8 * i) 8) else 0) ∧
          ∀ i, bankHolds (d.b28 + 1) i = false → S'.entries.get 0 i = S.entries.get 0 i)) ∧
    (d.op = 5 → up → (s.pkg p).comm.oos.getLsbD d.bole = false → d.b28 = 1 → ∀ j < 256, d.loc = 0x01008000 + 8 * j →
      Answers (.niWrite p f r n) s fun t => ok t ∧ s.sameMemory t ∧ ((t.pkg p).bole d.bole).coll.ctr.get 0 j =
        min 4294967295 (((s.pkg p).bole d.bole).coll.ctr.get 0 j + fld d.bytes 32 4)) ∧
    (d.op = 5 → ¬up → Answers (.niWrite p f r n) s fun t => down t ∧ s.sameMemory t) ∧
    (d.op = 6 → let v := leNat (padTo 32 d.image)
      Answers (.collGroup p f r n) s fun t => ok t ∧ s.sameMemory t ∧ ∀ k : BoleIx,
        (k.val ∉ (s.pkg p).groupMembers f (fun _ => ({} : Group).write v) →
          ((t.pkg p).bole k).coll = ((s.pkg p).bole k).coll) ∧
        (k.val ∈ (s.pkg p).groupMembers f (fun _ => ({} : Group).write v) → ((s.pkg p).bole k).coll.opOf d.b28 = none →
          ((t.pkg p).bole k).coll.group d.b28 = (((s.pkg p).bole k).coll.group d.b28).write v)) ∧
    (d.op = 7 → ∀ k : BoleIx, let g := fld d.image 1 1 % 64
      (s.pkg p).groupMembers f (fun k => ((s.pkg p).bole k).coll.group g) = [k.val] →
      let G := ((s.pkg p).bole k).coll.group g
      let o : CollOp := { group := g, lrec := padTo 64 d.image, epoch := G.epoch, launchNo := G.launches, started := false }
      ((s.pkg p).bole k).coll.opOf g = none → G.exec = false → (s.pkg p).launchGood k o = true →
      ((s.pkg p).bole k).coll.laneHeld G.lane = true → ((s.pkg p).bole k).coll.laneWaiting G.lane < 4 →
      Answers (.collLaunch p f r n) s fun t => ok t ∧ (((t.pkg p).bole k).coll.group g).epoch = (G.epoch + 1) % 64 ∧
        ((t.pkg p).bole k).coll.ops = ((s.pkg p).bole k).coll.ops ++
          [{ o with epoch := (G.epoch + 1) % 64, launchNo := (G.launches + 1) % 2 ^ 32 }]) ∧
    (d.op = 8 → d.b28 = 0 → up → (s.pkg p).tok.bringup = false → Answers (.boleRunStart p f r n) s fun t => ok t ∧
      ((t.pkg p).bole d.bole).running = true ∧ ((t.pkg p).bole d.bole).entry = d.loc) ∧
    (d.op = 8 → d.b28 = 0 → up → (s.pkg p).tok.bringup = true → Answers (.boleRunStart p f r n) s fun t =>
      s.descEnds t p f r d 8 0 ∧ ((t.pkg p).bole d.bole).running = ((s.pkg p).bole d.bole).running) ∧
    (d.op = 8 → d.b28 = 1 → up → (s.pkg p).tok.bringup = false → Answers (.boleRunStop p f r n) s fun t => ok t ∧
      ((t.pkg p).bole d.bole).running = false) ∧
    (d.op = 9 → up → fld d.bytes 32 4 ≤ ((s.pkg p).bole d.bole).coll.ctr.get 0 d.b28 →
      Answers (.wait p f r n) s fun t => ok t ∧ s.sameMemory t) ∧
    (d.op = 9 → up → ((s.pkg p).bole d.bole).coll.ctr.get 0 d.b28 < fld d.bytes 32 4 →
      Answers (.wait p f r n) s fun t => t.pkg p = s.pkg p) ∧
    (d.op = 15 → ((s.pkg p).fn f).abort.state ≠ 1 → Answers (.abort p f r n) s fun t => ok t ∧
      ((t.pkg p).ring f r).st = .stopped ∧ ((t.pkg p).fn f).abort.state = 1 ∧
      ((t.pkg p).fn f).abort.startTick = (s.pkg p).tk.tickNum) ∧
    (d.op = 15 → ((s.pkg p).fn f).abort.state = 1 → Answers (.abort p f r n) s fun t => ok t ∧
      ((t.pkg p).fn f).abort.repeats = min 31 (((s.pkg p).fn f).abort.repeats + 1))) ∧
  (∀ (p : PkgId) (f : FnIx) (r : RingIx) (d : Desc) (s : State), s.fnUp p f → ((s.pkg p).ring f r).st = .running →
    (s.pkg p).issues f = true → ((s.pkg p).ring f r).next = some d →
    let R := (s.pkg p).ring f r
    let b := leBytes 4 d.n ++ leBytes 1 d.status ++ leBytes 1 d.op ++ leBytes 2 d.detail ++ (d.bytes.drop 4).take 4 ++
      leBytes 4 ((s.pkg p).tk.tickNum % 2 ^ 32)
    let a := R.cq + 16 * (d.n % 2 ^ R.log2size)
    Answers (.descriptorComplete p f r) s fun t =>
      (s.pkg p).rt.tlps ++ [.memWr f (a + 8) (b.drop 8) false false, .memWr f a (b.take 8) false false] <+: (t.pkg p).rt.tlps ∧
      ((t.pkg p).ring f r).head = (d.n + 1) % 2 ^ 32 ∧
      ((t.pkg p).ring f r).st = (if (d.n + 1) % 2 ^ 32 = R.tailSeen then .idle else .running) ∧
      (bitAt d.flags 0 = true → ((t.pkg p).fn f).ringLeaf.getLsbD r = true))

/-! ### Chapter 16: aborts, resets, the vector -/

/-- DERIVED (rests on R408 to R410, R426 to R431, Table 16.5): aborts and ring resets. A start stops every ring and, at
every bole of the scope, the program, the triggers and the queues, and keeps the duplicate table; a second start is counted;
the collectives end at the third tick, and the rings are reset then; a ring reset issues what has ended, reads the record
once, and takes HEAD and TAIL_SEEN from it, or from TAIL_SEEN where the read fails or is out for a tick period; the last
ring makes the abort done; past 25 tick periods it escalates. -/
def Obligations.AbortsAndRingResets : Prop :=
  (∀ (p : PkgId) (f : FnIx) (s : State), s.fnUp p f →
    let F := (s.pkg p).fn f
    (F.abort.state ≠ 1 → Answers (.fnAbortGlade p f) s fun t =>
      ((t.pkg p).fn f).abort = { F.abort with state := 1, startTick := (s.pkg p).tk.tickNum, startPeriod := (s.pkg p).tk.period,
                                              startAt := s.now, collDone := false } ∧
      (∀ r : RingIx, ((t.pkg p).ring f r).st = (if ((s.pkg p).ring f r).st = .disabled then .disabled else .stopped) ∧
        (((s.pkg p).ring f r).st ≠ .disabled → ((t.pkg p).ring f r).exec = [])) ∧
      (∀ k ∈ (s.pkg p).scope f, let b := (t.pkg p).bole k
        b.running = false ∧ b.ni.q = [] ∧ b.ni.ops = [] ∧ b.ni.reqs = [] ∧ b.coll.sendQ = [] ∧ b.coll.engQ = [] ∧ b.coll.trigQ = [] ∧
        b.ni.aborting = true ∧ b.ni.dedup = ((s.pkg p).bole k).ni.dedup ∧ b.ni.alive = ((s.pkg p).bole k).ni.alive ∧
        b.sched.stopping = true ∧ b.sched.armed = false ∧ ∀ j, (b.coll.trig.get {} j).v = false) ∧
      (∀ k, k ∉ (s.pkg p).scope f → ((t.pkg p).bole k).running = ((s.pkg p).bole k).running ∧
        ((t.pkg p).bole k).ni.q = ((s.pkg p).bole k).ni.q ∧ ((t.pkg p).bole k).coll = ((s.pkg p).bole k).coll) ∧
      ((s.pkg p).tagOfFn f ≠ 0 → (t.stand (p / 64)).notices = (s.stand (p / 64)).notices ++
        [{ tag := (s.pkg p).tagOfFn f, tick := (s.pkg p).tk.tickNum, isAbort := true }])) ∧
    (F.abort.state = 1 → Answers (.fnAbortGlade p f) s fun t =>
      (t.pkg p).fn f = { F with abort := { F.abort with repeats := min 31 (F.abort.repeats + 1) } } ∧ s.sameMemory t) ∧
    (F.master = false → Answers (.fnAbortRings p f) s fun t =>
      (t.pkg p).fn f = { F with cntNudgeIgn := { F.cntNudgeIgn with live := min 4294967295 (F.cntNudgeIgn.live + 1) } }) ∧
    (F.master = true → Answers (.fnAbortRings p f) s fun t => (∀ r : RingIx, ((s.pkg p).ring f r).st ≠ .disabled →
        ((t.pkg p).ring f r).st = .stopped ∧ ((t.pkg p).ring f r).rstDue = true ∧ ((t.pkg p).ring f r).exec = []) ∧
      ∀ k, ((t.pkg p).bole k).running = ((s.pkg p).bole k).running ∧ ((t.pkg p).bole k).ni.q = ((s.pkg p).bole k).ni.q) ∧
    (∀ unconfirmed, F.abort.tooLong s.now = false → Answers (.abortEscalate p f unconfirmed) s fun t => t = s) ∧
    (∀ unconfirmed : BitVec 64, F.abort.tooLong s.now = true → Answers (.abortEscalate p f unconfirmed) s fun t =>
      ((t.pkg p).fn f).escalated = true ∧ ((t.pkg p).fn f).abort.state = 3 ∧
      ((t.pkg p).fn f).funcLeaf &&& fnAbortEscalated = fnAbortEscalated ∧
      ((∀ f' r', ((s.pkg p).ring f' r').exec = []) → s.sameMemory t) ∧
      (∀ r : RingIx, ((t.pkg p).ring f r).st = .disabled) ∧
      (∀ k ∈ (s.pkg p).scope f, unconfirmed.getLsbD k = true → ((s.pkg p).bole k).st = .up →
        ((t.pkg p).bole k).st = .inReset) ∧
      (t.stand (p / 64)).alarms = (s.stand (p / 64)).alarms ++ [.abortEscalated (p % 64) f])) ∧
  (∀ (p : PkgId) (v : Fin 16) (s : State), (s.pkg p).live = true →
    Answers (.rtVfAbort p (BitVec.ofNat 16 (2 ^ v.val))) s fun t =>
      Answers (.fnAbortGlade p (Fin.ofNat 17 (v.val + 1))) s fun u => u = t) ∧
  (∀ (p : PkgId) (f : FnIx) (r : RingIx) (s : State), s.fnUp p f →
    let R := (s.pkg p).ring f r
    (R.st = .stopped → R.rstDue = true → (s.pkg p).issues f = true → (s.pkg p).readRoom f = true →
      (s.pkg p).rt.readWait = [] → Answers (.ringReset p f r) s fun t =>
        let R' := (t.pkg p).ring f r
        R'.st = .stopped ∧ R'.waiting = [] ∧ R'.exec = [] ∧ R'.ended = [] ∧ R'.rstOut = true ∧ R'.rstDue = false ∧
        (∀ d, R.ended = [d] → R.head = d.n → R'.head = (d.n + 1) % 2 ^ 32 ∧
          (s.pkg p).rt.tlps.length + 3 ≤ (t.pkg p).rt.tlps.length) ∧
        ∃ x ∈ (t.pkg p).rt.reads, x.fn = f ∧ x.addr = R.dbr ∧ x.len = 16 ∧ x.what = .resetRecord r) ∧
    (R.st = .stopped → R.rstDue = true → ((s.pkg p).fn f).master = false → Answers (.ringReset p f r) s fun t =>
      ((t.pkg p).ring f r).st = .quiesced ∧ ((t.pkg p).ring f r).ended = [] ∧ ((t.pkg p).ring f r).head = R.head) ∧
    (R.st ≠ .stopped → Answers (.ringReset p f r) s fun t => t.pkg p = (s.pkg p).noteResets s.now) ∧
    (∀ (tail ntail : BitVec 32) (x : HostRead), (s.pkg p).readOf f (.resetRecord r) = some x →
      Answers (.ringResetReadDone p f r tail ntail) s fun t =>
        let R' := (t.pkg p).ring f r
        (ntail = ~~~tail → R'.head = tail.toNat ∧ R'.tailSeen = tail.toNat ∧ R'.fetchPos = tail.toNat) ∧
        (ntail ≠ ~~~tail → R'.head = R.tailSeen ∧ R'.tailSeen = R.tailSeen ∧ R'.fetchPos = R.tailSeen) ∧
        (((s.pkg p).fn f).master = true → R'.st = .idle) ∧ (((s.pkg p).fn f).master = false → R'.st = .quiesced) ∧
        (((s.pkg p).fn f).abort.state = 1 → ((s.pkg p).fn f).abort.collDone = true →
          (∀ q : RingIx, q ≠ r → ((s.pkg p).ring f q).st ≠ .stopped) →
          ((t.pkg p).fn f).abort.state = 2 ∧ ((t.pkg p).fn f).funcLeaf &&& fnAbortDone = fnAbortDone ∧
          ∀ k ∈ (s.pkg p).scope f, ((t.pkg p).bole k).ni.aborting = false)) ∧
    (let late := ∃ at_, R.rstAt = some at_ ∧ at_ + 1500 * R.rstPeriod ≤ s.now
      ∀ failed : Bool, (R.rstOut = true → failed = true ∨ late →
        Answers (.ringResetReadTimeout p f r failed) s fun t => ((t.pkg p).ring f r).head = R.tailSeen ∧
          ((t.pkg p).ring f r).tailSeen = R.tailSeen ∧ (((s.pkg p).fn f).master = true → ((t.pkg p).ring f r).st = .idle)) ∧
      (R.rstOut = false ∨ (failed = false ∧ ¬late) →
        Answers (.ringResetReadTimeout p f r failed) s fun t => t.pkg p = s.pkg p))) ∧
  (∀ (p : PkgId) (f : FnIx) (s : State), (s.pkg p).live = true → ((s.pkg p).fn f).abort.state = 1 →
    ((s.pkg p).fn f).abort.collDone = false →
    ((s.pkg p).tk.tickNum < ((s.pkg p).fn f).abort.startTick + 3 →
      Answers (.abortCollectivesEnd p f) s fun t => t.pkg p = s.pkg p) ∧
    (((s.pkg p).fn f).abort.startTick + 3 ≤ (s.pkg p).tk.tickNum → Answers (.abortCollectivesEnd p f) s fun t =>
      (∀ k ∈ (s.pkg p).scope f, ((t.pkg p).bole k).coll.ops = []) ∧
      (((s.pkg p).fn f).inReset = false → ((t.pkg p).fn f).abort.collDone = true ∧
        ∀ r : RingIx, ((s.pkg p).ring f r).st ≠ .disabled →
          ((t.pkg p).ring f r).st = .stopped ∧ ((t.pkg p).ring f r).rstDue = true) ∧
      (((s.pkg p).fn f).inReset = true → ((t.pkg p).fn f).inReset = false ∧ ((t.pkg p).fn f).fresh = true ∧
        ((t.pkg p).fn f).escalated = ((s.pkg p).fn f).escalated ∧
        (∀ r : RingIx, ((t.pkg p).ring f r).st = .disabled) ∧
        ∀ k ∈ (s.pkg p).scope f, ((t.pkg p).bole k).sched.active = 0)))

/-- DERIVED (rests on R59, R212, R265, R399, R419 to R421, R424, R425, R431, Tables 16.7 and 16.8): what each reset clears
and keeps. A cold reset zeroes all memory of its package and clears its position; a warm one keeps both; a conventional
reset takes the link and puts every function into its reset; a function reset drops the function's reads, and clears a
function without boles at once or starts the abort of its glade; a bole reset keeps leaf memory, causes, banks and group
records, gives the descriptors in execution at it TARGET_RESET, after which what they had not written is not written, and
starts in quarantine for eight ticks. No other package changes. -/
def Obligations.ResetsClearAndKeep : Prop :=
  (∀ (p : PkgId) (s : State), (s.pkg p).powered = true →
    (Answers (.packageColdReset p) s fun t => (t.pkg p).powered = true ∧ (t.pkg p).reset = .cold ∧ (t.pkg p).rt.posV = false ∧
      (t.pkg p).rt.fuse = (s.pkg p).rt.fuse ∧ (t.pkg p).rt.serial = (s.pkg p).rt.serial ∧ (t.pkg p).rt.pwrAt = s.now ∧
      (t.pkg p).fns = [] ∧ (t.pkg p).links = [] ∧ (t.pkg p).comm = {} ∧
      (∀ k a, t.leafByte p k a = 0) ∧ (∀ h o, t.heartByte p h o = 0) ∧ ∀ q, q ≠ p → t.pkg q = s.pkg q) ∧
    (Answers (.packageWarmReset p) s fun t => (t.pkg p).powered = true ∧ (t.pkg p).reset = .warm ∧
      (t.pkg p).rt.posV = (s.pkg p).rt.posV ∧ (t.pkg p).rt.stand = (s.pkg p).rt.stand ∧ (t.pkg p).rt.px = (s.pkg p).rt.px ∧
      (t.pkg p).rt.py = (s.pkg p).rt.py ∧ (t.pkg p).rt.linkUp = (s.pkg p).rt.linkUp ∧ (t.pkg p).fns = [] ∧ (t.pkg p).links = [] ∧
      (t.pkg p).comm = {} ∧ (t.pkg p).tk = {} ∧ (∀ h o, t.heartByte p h o = s.heartByte p h o) ∧
      ((s.pkg p).repairOf = (s.pkg p).repair → ∀ (k : BoleIx) (a : Nat), t.leafByte p k a = s.leafByte p k a) ∧
      (∀ k : BoleIx, ((t.pkg p).bole k).ni = {} ∧ ((t.pkg p).bole k).coll = {} ∧ ((t.pkg p).bole k).sched = {} ∧
        ((t.pkg p).bole k).cv = {}) ∧
      ∀ q, q ≠ p → t.pkg q = s.pkg q)) ∧
  (∀ (p : PkgId) (s : State), (s.pkg p).live = true →
    (∀ f : FnIx, ((s.pkg p).fn f).inReset = false ∧ ((s.pkg p).fn f).abort.state ≠ 1) →
    Answers (.conventionalReset p) s fun t => (t.pkg p).rt.linkUp = false ∧ (∀ q, q ≠ p → t.pkg q = s.pkg q) ∧
      ∀ f : FnIx,
        ((s.pkg p).scope f = [] → ((t.pkg p).fn f).inReset = false ∧ ∀ r : RingIx, ((t.pkg p).ring f r).st = .disabled) ∧
        ((s.pkg p).scope f ≠ [] → ((t.pkg p).fn f).inReset = true ∧ ((t.pkg p).fn f).abort.state = 1)) ∧
  (∀ (p : PkgId) (f : FnIx) (s : State), s.fnUp p f →
    ((s.pkg p).scope f = [] → Answers (.functionLevelReset p f) s fun t => s.sameMemory t ∧ ((t.pkg p).fn f).inReset = false ∧
      ((t.pkg p).fn f).fresh = true ∧ ((t.pkg p).fn f).lock = false ∧ ((t.pkg p).fn f).arm = true ∧
      ((t.pkg p).fn f).funcLeaf = 0 ∧ ((t.pkg p).fn f).bme = false ∧
      ((t.pkg p).fn f).escalated = ((s.pkg p).fn f).escalated ∧ ((t.pkg p).fn f).noGlade = ((s.pkg p).fn f).noGlade ∧
      (∀ r : RingIx, (t.pkg p).ring f r = {}) ∧ (∀ x ∈ (t.pkg p).rt.reads, x.fn ≠ f) ∧
      (t.pkg p).comm = (s.pkg p).comm) ∧
    ((s.pkg p).scope f ≠ [] → ((s.pkg p).fn f).abort.state ≠ 1 → Answers (.functionLevelReset p f) s fun t =>
      ((t.pkg p).fn f).inReset = true ∧ ((t.pkg p).fn f).flrStart = some s.now ∧ ((t.pkg p).fn f).abort.state = 1 ∧
      (∀ x ∈ (t.pkg p).rt.reads, x.fn ≠ f) ∧ ∀ k ∈ (s.pkg p).scope f, ((t.pkg p).bole k).running = false)) ∧
  (∀ (p : PkgId) (f : FnIx) (unconfirmed : BitVec 64) (at_ : Nat) (s : State), (s.pkg p).live = true →
    ((s.pkg p).fn f).inReset = true → ((s.pkg p).fn f).flrStart = some at_ →
    (s.now < at_ + 2700000 → Answers (.flrEscalate p f unconfirmed) s fun t => t = s) ∧
    (at_ + 2700000 ≤ s.now → Answers (.flrEscalate p f unconfirmed) s fun t => ((t.pkg p).fn f).inReset = false ∧
      ((t.pkg p).fn f).escalated = true ∧ ((t.pkg p).fn f).abort.state = 3 ∧
      ((∀ f' r', ((s.pkg p).ring f' r').exec = []) → s.sameMemory t))) ∧
  (∀ (p : PkgId) (k : BoleIx) (s : State), s.boleUp p k →
    Answers (.boleReset p k) s fun t =>
      let b := (s.pkg p).bole k
      let b' := (t.pkg p).bole k
      b'.st = .inReset ∧ b'.rstEnd = s.now + 15000 ∧ b'.cause = b.cause ∧ b'.running = false ∧
      ((∀ f r, ((s.pkg p).ring f r).exec = []) → b'.leaf = { b.leaf with pipeTurn := [], laneLast := [] } ∧ s.sameMemory t) ∧
      (∀ (f : FnIx) (r : RingIx), ∀ d ∈ ((s.pkg p).ring f r).exec, d.bole = k.val → d.op ∈ [1, 2, 3, 4, 5, 8, 9] →
        ∃ d' ∈ ((t.pkg p).ring f r).exec, d'.n = d.n ∧ d'.status = mergeStatus d.status 3) ∧
      b'.ni = { quarantine := some ((s.pkg p).tk.tickNum + 8) } ∧ b'.cv = {} ∧ b'.sched.streams = [] ∧
      b'.sched.active = b.sched.active ∧ b'.sched.entries = b.sched.entries ∧ b'.coll.trig = [] ∧ b'.coll.ctr = [] ∧
      (∀ g, (b'.coll.group g).set = (b.coll.group g).set ∧ (b'.coll.group g).epoch = 0) ∧
      (∀ j, j ≠ k.val → (t.pkg p).bole j = (s.pkg p).bole j) ∧ (∀ q, q ≠ p → t.pkg q = s.pkg q) ∧
      ((s.pkg p).tagOf k ≠ 0 → (t.stand (p / 64)).notices = (s.stand (p / 64)).notices ++
        [{ tag := (s.pkg p).tagOf k, tick := (s.pkg p).tk.tickNum, isAbort := false }]))

/-- DERIVED (rests on R8, R380, R400, R411 to R415, R422, R423, Table 16.3): locks, bus mastering and the vector. With Bus
Master Enable cleared, or in D3hot, no read of the function is left, its IDLE and RUNNING rings are QUIESCED with nothing in
execution, and every overflow read faults its bole; setting it again resumes no ring; an acknowledgement arms the vector,
which sends one message and disarms itself if it is pending, enabled and unmasked, and only marks itself pending if it is
masked; NI_HOST_SIGNAL sets its bole's SIGNAL. -/
def Obligations.MasteringAndVectors : Prop :=
  (∀ (p : PkgId) (s : State), (s.pkg p).live = true → Answers (.rtSetupLock p) s fun t =>
    (t.pkg p).rt = { (s.pkg p).rt with lock := true }) ∧
  (∀ (p : PkgId) (f : FnIx) (c : Instr) (s : State), s.fnUp p f → c = .bmeClear p f ∨ c = .d3hotEntry p f →
    Answers c s fun t => ((t.pkg p).fn f).master = false ∧ (∀ x ∈ (t.pkg p).rt.reads, x.fn ≠ f) ∧
      (∀ r : RingIx, (((s.pkg p).ring f r).st = .idle ∨ ((s.pkg p).ring f r).st = .running →
          ((t.pkg p).ring f r).st = .quiesced ∧ ((t.pkg p).ring f r).exec = []) ∧
        ((t.pkg p).ring f r).head = ((s.pkg p).ring f r).head) ∧
      (∀ x ∈ (s.pkg p).rt.reads, ∀ k op lf, x.what = .overflow k op lf → (s.pkg p).fnOf k = f →
        ((t.pkg p).bole k).cause.leaf &&& bcFault = bcFault)) ∧
  (∀ (p : PkgId) (f : FnIx) (s : State), s.fnUp p f →
    let F := (s.pkg p).fn f
    let sends (t : State) := (t.pkg p).rt.tlps = (s.pkg p).rt.tlps ++ [.msix f F.msix.addr F.msix.data] ∧
      ((t.pkg p).fn f).arm = false
    let quiet (t : State) := (t.pkg p).rt.tlps = (s.pkg p).rt.tlps
    (Answers (.fnSetupLock p f) s fun t => (t.pkg p).fn f = { F with lock := true }) ∧
    (Answers (.bmeSet p f) s fun t => ((t.pkg p).fn f).bme = true ∧ ((t.pkg p).fn f).rings = F.rings ∧
      ((s.pkg p).vecPending f = true → F.arm = true → F.msix.enable = true → F.d3 = false → F.msix.fmask = false →
        F.msix.vmask = false → sends t) ∧
      ((s.pkg p).vecPending f = false → quiet t)) ∧
    (Answers (.fnIntAck p f) s fun t =>
      ((s.pkg p).vecPending f = false → quiet t ∧ ((t.pkg p).fn f).arm = true) ∧
      (F.master = false → quiet t ∧ ((t.pkg p).fn f).arm = true) ∧
      ((s.pkg p).vecPending f = true → F.msix.enable = true → F.master = true →
        (F.msix.fmask = false → F.msix.vmask = false → sends t) ∧
        (F.msix.fmask = true ∨ F.msix.vmask = true →
          quiet t ∧ ((t.pkg p).fn f).arm = true ∧ ((t.pkg p).fn f).msix.pend = true)))) ∧
  (∀ (p : PkgId) (k : BoleIx) (s : State), s.boleUp p k → ((s.pkg p).bole k).running = true →
    Answers (.niHostSignal p k) s fun t =>
      ((t.pkg p).bole k).cause = { ((s.pkg p).bole k).cause with leaf := ((s.pkg p).bole k).cause.leaf ||| bcSignal } ∧
      s.sameMemory t)

/-! ### Chapters 17 and 18: the Stand, replants, registers -/

/-- DERIVED (rests on R143, R444 to R448, R451 to R455, R471, Tables 17.2, 17.4 and 17.5): replants. A request waits while a
replant is open; one that may not be is refused; a creation alone is journalled as BEGIN, STAGED and COMMIT, staged in every
package that runs and given a commit tick at least 5 ms ahead, and no committed table changes before it; a removal is begun
with its aborts; at the commit tick the staged tables become the committed ones if the generation and the lead time are
right, and else MISSED is set; GL_DISCARD and a roll back bring the staged copy back to the committed one; a restart after
COMMIT stages again what is behind; a sled that no glade touches is powered down at once. -/
def Obligations.Replants : Prop :=
  (∀ (st : StandIx) (s : State), let ld := s.leadOf st
    let r := s.stand ld
    let g' := (r.gen + 1) % 2 ^ 32
    (∀ gs tags, (r.replant ≠ none → Answers (.gladesCreate st gs) s fun t => t.pkgs = s.pkgs ∧
        (t.stand ld).waiting = r.waiting ++ [.create gs]) ∧
      (r.replant ≠ none → Answers (.gladesRemove st tags) s fun t => t.pkgs = s.pkgs ∧
        (t.stand ld).waiting = r.waiting ++ [.remove tags])) ∧
    (r.replant = none → r.waiting = [] →
      (∀ gs, s.createsOk ld r.glades (fun key => (s.pkg key).comm) gs = false → Answers (.gladesCreate st gs) s fun t =>
        t.pkgs = s.pkgs ∧ (t.stand ld).alarms = r.alarms ++ [.refused 1]) ∧
      (∀ gs, s.createsOk ld r.glades (fun key => (s.pkg key).comm) gs = true → 0 < r.period → Answers (.gladesCreate st gs) s fun t =>
        ∃ c, 5000 ≤ (c - s.groveTick ld) * r.period ∧ (t.stand ld).gen = g' ∧ (t.stand ld).replanting = true ∧
          (t.stand ld).glades = r.glades ++ gs ∧
          (t.stand ld).journal = r.journal ++ [.begin g' [] gs, .staged g', .commit g' c] ∧
          (∀ q, (t.pkg q).comm = (s.pkg q).comm) ∧ s.sameMemory t ∧
          ∀ q ∈ s.groveLive ld, (t.pkg q).stag.gen = g' ∧ (t.pkg q).rt.commitGen = g' ∧ (t.pkg q).rt.commitTick = c ∧
            (t.pkg q).rt.commitAt = some (s.pkg q).tk.tickNum) ∧
      (∀ tags tag, tag ∈ tags → (∀ g ∈ r.glades, g.tag ≠ tag) → Answers (.gladesRemove st tags) s fun t =>
        t.pkgs = s.pkgs ∧ (t.stand ld).alarms = r.alarms ++ [.refused 2]) ∧
      (∀ tags, (∀ tag ∈ tags, ∃ g ∈ r.glades, g.tag = tag) → Answers (.gladesRemove st tags) s fun t =>
        r.journal ++ [.begin g' tags []] <+: (t.stand ld).journal ∧ (t.stand ld).replant ≠ none ∧
        (t.stand ld).replanting = true ∧ ∀ q, (t.pkg q).comm = (s.pkg q).comm) ∧
      (∀ sled : Fin 16, (s.stand st).sledOut.getLsbD sled = false → s.sledTags ld (16 * st + sled) = [] →
        Answers (.serviceSled st sled) s fun t => (t.stand st).sledOut.getLsbD sled = true ∧
          (t.stand st).sledOn.getLsbD sled = false ∧ (t.stand st).journal = (s.stand st).journal ++ [.service sled true] ∧
          ∀ q ∈ sledKeys (16 * st + sled), (t.pkg q).powered = false)) ∧
    (∀ sled : Fin 16, (s.stand st).sledOut.getLsbD sled = true → Answers (.serviceSled st sled) s fun t =>
      t.pkgs = s.pkgs ∧ (t.stand st).alarms = (s.stand st).alarms ++ [.refused 5])) ∧
  (∀ (p : PkgId) (s : State), (s.pkg p).live = true →
    (s.stand (s.leadOf (p.val / 64))).replant = none → (s.stand (s.leadOf (p.val / 64))).waiting = [] →
    let P := s.pkg p
    (P.rt.commitAt = none ∨ P.tk.tickNum < P.rt.commitTick → Answers (.gladeCommit p) s fun t => t.pkg p = P) ∧
    (∀ w, P.rt.commitAt = some w → P.rt.commitTick ≤ P.tk.tickNum →
      (P.stag.gen = P.rt.commitGen → w + 2 < P.rt.commitTick → Answers (.gladeCommit p) s fun t =>
        (t.pkg p).comm = P.stag ∧ (t.pkg p).rt.commitAt = none ∧ (t.pkg p).rt.missed = P.rt.missed) ∧
      (P.stag.gen ≠ P.rt.commitGen ∨ P.rt.commitTick ≤ w + 2 → Answers (.gladeCommit p) s fun t =>
        t.pkg p = { P with rt := { P.rt with commitAt := none, missed := true } })) ∧
    Answers (.glDiscard p) s fun t => t.pkg p = { P with stag := P.comm }) ∧
  (∀ (st : StandIx) (s : State), s.leadOf st = st.val →
    ((s.stand st).replant = none → Answers (.rootstockRestart st) s fun t => t.pkgs = s.pkgs ∧ (t.stand st).fans = 900 ∧
      (t.stand st).journal = (s.stand st).journal ∧ (t.stand st).gen = (s.stand st).gen) ∧
    (∀ R, (s.stand st).replant = some R → R.step = 2 → Answers (.rootstockRestart st) s fun t =>
      (t.stand st).replant = none ∧ (t.stand st).replanting = false ∧ (t.stand st).gen = (s.stand st).gen ∧
      (t.stand st).journal = (s.stand st).journal ++ [.rollback R.gen] ∧ (t.stand st).glades = (s.stand st).glades ∧
      (∀ q, (t.pkg q).comm = (s.pkg q).comm) ∧ ∀ q ∈ s.groveLive st, (t.pkg q).stag = (s.pkg q).comm) ∧
    (∀ R, (s.stand st).replant = some R → R.step ≠ 2 → Answers (.rootstockRestart st) s fun t =>
      (∀ q, (t.pkg q).comm = (s.pkg q).comm ∨ (t.pkg q).powered = false) ∧
      ∀ q ∈ s.groveLive st, (s.pkg q).comm.gen ≠ R.gen →
        (t.pkg q).stag.gen = R.gen ∧ (t.pkg q).rt.commitGen = R.gen ∧ (t.pkg q).rt.commitAt = some (s.pkg q).tk.tickNum))

/-- DERIVED (rests on R23, R57, R377, R435 to R439, R443, R444, R457, R458, R479): bring-up and the Stand. A sled's power
puts its four packages into cold reset; a package that has its position reports ready with its time at 0 and the journal's
tick period, and a graft channel that failed is journalled; one that is not ready 25 ms after its power is held, all its
positions out of service; the first token tick ends the bring-up power state; a returned sled comes up again; JoinGrove
gives every Stand the new shape, or is refused while a glade stands; a PATCH that would leave less than 64 step-0 packages
their budget is refused; a defect past row 8 is refused with BADCFG. -/
def Obligations.BringUpAndStands : Prop :=
  (∀ (st : StandIx) (sled : Fin 16) (s : State), let r := s.stand st
    (r.thermalHold = true ∨ r.sledOn.getLsbD sled = true ∨ r.sledOut.getLsbD sled = true →
      Answers (.sledPowerOn st sled) s fun t => t = s) ∧
    (r.thermalHold = false → r.sledOn.getLsbD sled = false → r.sledOut.getLsbD sled = false →
      Answers (.sledPowerOn st sled) s fun t => (t.stand st).sledOn.getLsbD sled = true ∧
        (∀ q ∈ sledKeys (16 * st + sled), (t.pkg q).powered = true ∧ (t.pkg q).reset = .cold ∧ (t.pkg q).tok.bringup = true) ∧
        ∀ q, q ∉ sledKeys (16 * st + sled) → t.pkg q = s.pkg q) ∧
    (r.sledOut.getLsbD sled = false → Answers (.returnSled st sled) s fun t => t = s) ∧
    (r.sledOut.getLsbD sled = true → Answers (.returnSled st sled) s fun t => (t.stand st).sledOut.getLsbD sled = false ∧
      (t.stand st).journal = r.journal ++ [.service sled false] ∧
      ∀ q ∈ sledKeys (16 * st + sled), (t.pkg q).powered = true ∧ (t.pkg q).reset = .cold)) ∧
  (∀ (p : PkgId) (s : State), let P := s.pkg p
    (∀ bad : BitVec 9, P.powered = true → P.reset ≠ .none → P.rt.posV = true → P.failed = false →
      Answers (.packageReady p bad) s fun t => (t.pkg p).ready = true ∧ (t.pkg p).reset = .none ∧
        (t.pkg p).tk.period = (s.stand (p.val / 64)).cfgPeriod ∧ (t.pkg p).tk.time s.now = 0 ∧
        (t.pkg p).tok.bringup = P.tok.bringup ∧
        (t.stand (p.val / 64)).journal = (s.stand (p.val / 64)).journal ++
          ((P.newChannels bad).map fun d => .defect (p.val % 64) d)) ∧
    (∀ bad, P.powered = false ∨ P.reset = .none ∨ P.rt.posV = false ∨ P.failed = true →
      Answers (.packageReady p bad) s fun t => t = s) ∧
    (P.rt.pwrAt + 37500000 ≥ s.now → Answers (.packageFailed p) s fun t => t = s) ∧
    (P.powered = true → P.reset ≠ .none → P.failed = false → P.rt.pwrAt + 37500000 < s.now → Answers (.packageFailed p) s fun t =>
      (t.pkg p).failed = true ∧ (t.pkg p).reset = .cold ∧ (t.pkg p).comm.oos = BitVec.allOnes 64 ∧
      (∀ k : BoleIx, ((t.pkg p).bole k).st = .off) ∧
      (t.stand (p.val / 64)).alarms = (s.stand (p.val / 64)).alarms ++ [.packageFailed (p.val % 64)]) ∧
    (P.live = true → P.tok.bringup = true → P.tok.firstTick ≠ 0 →
      (P.tok.firstTick ≤ P.tk.tickNum → Answers (.firstTokenTick p) s fun t => (t.pkg p).tok.bringup = false ∧
        (t.pkg p).comm = P.comm) ∧
      (P.tk.tickNum < P.tok.firstTick → Answers (.firstTokenTick p) s fun t => t.pkg p = P)) ∧
    (P.powered = true → ∀ (i : Fin 32) (v : BitVec 32),
      let d : Defect := ⟨bits v.toNat 1 0, bits v.toNat 6 4, bits v.toNat 11 8⟩
      (d.kind = 0 ∨ d.row < 9 → Answers (.rtFieldDefectWrite p i v) s fun t => (t.pkg p).rt.field = P.rt.field.set i d) ∧
      (d.kind ≠ 0 → 9 ≤ d.row → Answers (.rtFieldDefectWrite p i v) s fun t => (t.pkg p).rt.field = P.rt.field ∧
        ((t.pkg p).fn 0).badCfg = true)) ∧
    (P.powered = true → ∀ v : BitVec 32, Answers (.rtPositionWrite p v) s fun t => (t.pkg p).rt.stand = v.toNat % 32 ∧
      (t.pkg p).rt.px = v.toNat / 256 % 8 ∧ (t.pkg p).rt.py = v.toNat / 4096 % 8 ∧
      (t.pkg p).rt.posV = (P.rt.posV || bitAt v.toNat 31)) ∧
    (P.powered = true → ∀ width speed, width < 64 → speed < 16 → Answers (.pcieLinkUp p width speed) s fun t =>
      t.pkg p = { P with rt := { P.rt with linkUp := true, width := width, speed := speed } })) ∧
  (∀ (w h : Nat) (s : State), w ∈ [1, 2, 4, 8] → h ∈ [1, 2, 4] →
    ((∃ st ∈ s.joining w h, (s.stand st).glades ≠ [] ∨ (s.stand st).replant ≠ none) →
      Answers (.joinGrove w h) s fun t => t.pkgs = s.pkgs ∧ (t.stand 0).alarms = (s.stand 0).alarms ++ [.refused 4]) ∧
    ((∀ st ∈ s.joining w h, (s.stand st).glades = [] ∧ (s.stand st).replant = none) →
      (∀ st ∈ s.joining w h, inShape w h st = true →
        (s.stand st).shortfall w h (s.stand st).hostAllowance (s.stand st).period = 0) →
      Answers (.joinGrove w h) s fun t => ∀ st < 32, inShape w h st = true →
        (t.stand st).w = w ∧ (t.stand st).h = h ∧ (t.stand st).stand = st ∧ ((t.stand st).lead = true ↔ st = 0) ∧
        ∀ n < 64, (s.pkg (64 * st + n)).powered = true → (t.pkg (64 * st + n)).reset = .cold)) ∧
  (∀ (st : StandIx) (v : Nat) (s : State), let r := s.stand st
    (v < 65536 → r.shortfall r.w r.h v r.period = 0 → Answers (.redfishPatch st .hostAllowance v) s fun t =>
      (t.stand st).hostAllowance = v ∧
      (t.stand st).journal = r.journal ++ [.config r.cfgPeriod v r.bankCapSet r.w r.h]) ∧
    (v < 65536 → r.shortfall r.w r.h v r.period ≠ 0 → Answers (.redfishPatch st .hostAllowance v) s fun t =>
      (t.stand st).hostAllowance = r.hostAllowance ∧
      (t.stand st).alarms = r.alarms ++ [.configShort (r.shortfall r.w r.h v r.period)]) ∧
    (v < 2 ^ 20 → Answers (.redfishPatch st .bankCapSet v) s fun t => (t.stand st).bankCapSet = v ∧
      (t.stand st).journal = r.journal ++ [.config r.cfgPeriod r.hostAllowance v r.w r.h]))

/-- DERIVED (rests on R10, R73, R282, R384 to R386, R388, R460, R461): accesses by path. A PCIe write that crosses a 64-byte
block changes nothing, one to a locked field of function space changes nothing of its package, and none changes what the
Rootstock alone writes; an open ring register holds what was written; the Rootstock writes its own fields by MCTP, but no
overflow ceiling below the budgets (R73); a 32-bit read of the low half of a 64-bit register keeps the high half for the
read that follows, and a read at a check-value unit finds every earlier write carried out. -/
def Obligations.AccessesByPath : Prop :=
  (∀ (p : PkgId) (f : FnIx) (o : Nat) (data : List Byte) (s : State),
    (64 < o % 64 + data.length → Answers (.registerWrite p (.pcie f) o data) s fun t => t = s) ∧
    (Answers (.registerWrite p (.pcie f) o data) s fun t => let P := s.pkg p
      let Q := t.pkg p
      Q.comm = P.comm ∧ Q.stag = P.stag ∧ Q.tok = P.tok ∧ Q.repair = P.repair ∧ Q.rt.stand = P.rt.stand ∧ Q.rt.px = P.rt.px ∧
      Q.rt.py = P.rt.py ∧ Q.rt.field = P.rt.field ∧ Q.rt.ovfCeil = P.rt.ovfCeil ∧ Q.rt.lock = P.rt.lock ∧
      Q.tk.period = P.tk.period ∧ Q.tk.tickNum = P.tk.tickNum ∧ Q.reset = P.reset ∧ Q.powered = P.powered ∧
      ∀ q, q ≠ p → t.pkg q = s.pkg q) ∧
    (((s.pkg p).fn f).lock = true → o < 0x10000 → o % 4 = 0 → fnOpen o = false → data.length = 4 →
      Answers (.registerWrite p (.pcie f) o data) s fun t => t.pkg p = s.pkg p)) ∧
  (∀ (p : PkgId) (f : FnIx) (r : RingIx) (data : List Byte) (s : State), s.fnUp p f → (s.pkg p).rt.linkUp = true →
    ((s.pkg p).fn f).lock = false → data.length = 8 →
    (Answers (.registerWrite p (.pcie f) (0x1000 + 0x40 * r) data) s fun t =>
      (t.pkg p).ring f r = { (s.pkg p).ring f r with base := leNat data }) ∧
    (Answers (.registerWrite p (.pcie f) (0x1008 + 0x40 * r) data) s fun t =>
      (t.pkg p).ring f r = { (s.pkg p).ring f r with dbr := leNat data }) ∧
    (Answers (.registerWrite p (.pcie f) (0x1010 + 0x40 * r) data) s fun t =>
      (t.pkg p).ring f r = { (s.pkg p).ring f r with cq := leNat data })) ∧
  (∀ (p : PkgId) (data : List Byte) (s : State), (s.pkg p).live = true → data.length = 4 →
    (Answers (.registerWrite p .mctp 0x10004 data) s fun t => (t.pkg p).rt.stand = leNat data % 32 ∧
      (t.pkg p).rt.px = leNat data / 256 % 8 ∧ (t.pkg p).rt.py = leNat data / 4096 % 8) ∧
    (((List.range 17).map fun f => (s.pkg p).comm.budget.get 0 f).sum ≤ leNat data % 65536 →
      ((List.range 17).map fun f => (s.pkg p).stag.budget.get 0 f).sum ≤ leNat data % 65536 →
      Answers (.registerWrite p .mctp 0x10020 data) s fun t => (t.pkg p).rt.ovfCeil = leNat data % 65536) ∧
    (leNat data % 65536 < ((List.range 17).map fun f => (s.pkg p).comm.budget.get 0 f).sum →
      Answers (.registerWrite p .mctp 0x10020 data) s fun t => (t.pkg p).rt.ovfCeil = (s.pkg p).rt.ovfCeil ∧
        ((t.pkg p).fn 0).badCfg = true)) ∧
  (∀ (p : PkgId) (path : Path) (o n : Nat) (s : State), (s.pkg p).live = true →
    (∀ u q, cvAt path o = some (u, q) → (s.pkg p).cvReach u = true → Answers (.halfReadLatch p path o n) s fun t =>
      ((t.pkg p).cvOf u).fifo = []) ∧
    (cvAt path o = none → n = 4 → (regAt path o).roLow = true → (s.pkg p).blockCode (regAt path o) = none →
      (s.pkg p).blockCode (regAt path (o + 4)) = none → Answers (.halfReadLatch p path o n) s fun t =>
        ∀ now', (t.pkg p).pathWord now' path (o + 4) = (s.pkg p).regWord s.now (regAt path o).next) ∧
    (cvAt path o = none → n ≠ 4 ∨ (regAt path o).roLow = false → Answers (.halfReadLatch p path o n) s fun t =>
      t.pkg p = s.pkg p))
end

