-- ==== Sys2Proof/Laws/Tab.lean ====
section
/-! SUPPORT. What reading a table gives after one of its entries is set, changed or taken away. -/

namespace Sys2Proof

@[simp] theorem Tab.get_nil {α : Type} (d : α) (n : Nat) : Tab.get d ([] : Tab α) n = d := rfl

/-- The entry that was set is read back. -/
@[simp] theorem Tab.get_set_same {α : Type} (d : α) (t : Tab α) (n : Nat) (x : α) : (Tab.set t n x).get d n = x := by
  induction t with
  | nil => simp [Tab.set, Tab.get]
  | cons e t ih =>
    obtain ⟨k, v⟩ := e
    simp only [Tab.set]
    split
    · simp [Tab.get]
    · split
      · simp [Tab.get]
      · rename_i h1 h2
        simp [Tab.get, h2, ih]

/-- Every other entry stays. -/
@[simp] theorem Tab.get_set_ne {α : Type} (d : α) (t : Tab α) {n m : Nat} (x : α) (h : m ≠ n) :
    (Tab.set t n x).get d m = t.get d m := by
  induction t with
  | nil => simp [Tab.set, Tab.get, h]
  | cons e t ih =>
    obtain ⟨k, v⟩ := e
    simp only [Tab.set]
    split
    · simp [Tab.get, h]
    · split
      · rename_i h2
        subst h2
        simp [Tab.get, h]
      · simp only [Tab.get, ih]

theorem Tab.get_set {α : Type} (d : α) (t : Tab α) (n m : Nat) (x : α) :
    (Tab.set t n x).get d m = if m = n then x else t.get d m := by
  split
  · rename_i h
    subst h
    exact Tab.get_set_same d t m x
  · rename_i h
    exact Tab.get_set_ne d t x h

/-- Setting an entry twice leaves the later value. -/
@[simp] theorem Tab.set_set {α : Type} (t : Tab α) (n : Nat) (x y : α) : (t.set n x).set n y = t.set n y := by
  induction t with
  | nil => simp [Tab.set]
  | cons e t ih =>
    obtain ⟨k, v⟩ := e
    by_cases h1 : n < k
    · simp [Tab.set, h1]
    · by_cases h2 : n = k
      · simp [Tab.set, h2]
      · simp [Tab.set, h1, h2, ih]

@[simp] theorem Tab.get_upd_same {α : Type} (d : α) (t : Tab α) (n : Nat) (f : α → α) :
    (Tab.upd d t n f).get d n = f (t.get d n) := Tab.get_set_same d t n _

@[simp] theorem Tab.get_upd_ne {α : Type} (d e : α) (t : Tab α) {n m : Nat} (f : α → α) (h : m ≠ n) :
    (Tab.upd d t n f).get e m = t.get e m := Tab.get_set_ne e t _ h

@[simp] theorem Tab.upd_upd {α : Type} (d : α) (t : Tab α) (n : Nat) (f g : α → α) :
    Tab.upd d (Tab.upd d t n f) n g = Tab.upd d t n fun x => g (f x) := by
  unfold Tab.upd
  rw [Tab.get_set_same, Tab.set_set]

/-- Reading a table whose entries have been changed one by one. -/
theorem Tab.get_map {α : Type} (d : α) (f : α → α) (h : f d = d) (t : Tab α) (n : Nat) :
    Tab.get d (t.map fun e => (e.1, f e.2)) n = f (t.get d n) := by
  induction t with
  | nil => simp [Tab.get, h]
  | cons e t ih =>
    obtain ⟨k, v⟩ := e
    simp only [List.map_cons, Tab.get]
    split
    · rfl
    · exact ih

/-- The keys of a table rise. -/
def Tab.rising {α : Type} (t : Tab α) : Prop := t.Pairwise fun a b => a.1 < b.1

theorem Tab.set_keys {α : Type} (t : Tab α) (n : Nat) (x : α) :
    ∀ e ∈ Tab.set t n x, e.1 = n ∨ e ∈ t := by
  induction t with
  | nil => simp [Tab.set]
  | cons a t ih =>
    obtain ⟨k, v⟩ := a
    intro e he
    simp only [Tab.set] at he
    split at he
    · simp only [List.mem_cons] at he ⊢
      rcases he with rfl | he
      · exact .inl rfl
      · exact .inr he
    · split at he
      · simp only [List.mem_cons] at he ⊢
        rcases he with rfl | he
        · exact .inl rfl
        · exact .inr (.inr he)
      · simp only [List.mem_cons] at he ⊢
        rcases he with rfl | he
        · exact .inr (.inl rfl)
        · rcases ih e he with h | h
          · exact .inl h
          · exact .inr (.inr h)

/-- Setting an entry keeps the keys rising. -/
theorem Tab.set_rising {α : Type} {t : Tab α} (h : t.rising) (n : Nat) (x : α) : (t.set n x).rising := by
  induction t with
  | nil => simp [Tab.set, Tab.rising]
  | cons a t ih =>
    obtain ⟨k, v⟩ := a
    unfold Tab.rising at h ih ⊢
    rw [List.pairwise_cons] at h
    simp only [Tab.set]
    split
    · rename_i hlt
      rw [List.pairwise_cons, List.pairwise_cons]
      refine ⟨?_, h.1, h.2⟩
      intro b hb
      simp only [List.mem_cons] at hb
      rcases hb with rfl | hb
      · exact hlt
      · exact lt_trans hlt (h.1 b hb)
    · split
      · rename_i h1 h2
        subst h2
        rw [List.pairwise_cons]
        exact ⟨h.1, h.2⟩
      · rename_i h1 h2
        rw [List.pairwise_cons]
        refine ⟨?_, ih h.2⟩
        intro b hb
        rcases Tab.set_keys t n x b hb with hb | hb
        · have : n ≠ k := h2
          simp only [hb]
          omega
        · exact h.1 b hb

end Sys2Proof
end

