-- ==== Sys2Proof/Laws/Memory.lean ====
section
/-! SUPPORT. Memory: what a read gives after a write, and the canonical form that every memory operation keeps. -/

namespace Sys2Proof.Machine

/-! ### Reads after writes -/

@[simp] theorem Memory.read_write_same (m : Memory) (a : Nat) (b : Byte) (h : Memory.wf m = true) :
    Memory.read (Memory.write m a b) a = b := by
  induction m with
  | nil => by_cases hb : b = 0#8 <;> simp [Memory.write, Memory.read, hb]
  | cons c m ih =>
    obtain ⟨k, v⟩ := c
    have hm : Memory.wf m = true := by
      cases m with
      | nil => rfl
      | cons d m => simp [Memory.wf] at h; exact h.2
    -- no later entry has a key at or below k
    have later : ∀ (m : Memory) (j : Nat), Memory.wf m = true → (∀ e ∈ m.head?, a < e.1) → Memory.read m a = 0 := by
      intro m
      induction m with
      | nil => intros; rfl
      | cons d m ihm =>
        intro j hw hh
        obtain ⟨k1, v1⟩ := d
        have h1 : a < k1 := by simpa using hh
        have hw' : Memory.wf m = true ∧ ∀ e ∈ m.head?, k1 < e.1 := by
          cases m with
          | nil => exact ⟨rfl, by simp⟩
          | cons d2 m2 => obtain ⟨k2, v2⟩ := d2; simp [Memory.wf] at hw; exact ⟨hw.2, by simpa using hw.1.2⟩
        have : a ≠ k1 := by omega
        simp only [Memory.read, this, if_false]
        exact ihm j hw'.1 (fun e he => lt_trans h1 (hw'.2 e he))
    simp only [Memory.write, BitVec.ofNat_eq_ofNat]
    by_cases h1 : a < k
    · by_cases hb : b = 0#8
      · simp only [h1, hb, if_true]
        exact later _ 0 h (by simpa using h1)
      · simp [h1, hb, Memory.read]
    · by_cases h2 : a = k
      · by_cases hb : b = 0#8
        · simp only [if_neg h1, if_pos h2, hb, if_true]
          refine later m 0 hm ?_
          intro e he
          cases m with
          | nil => simp at he
          | cons d m =>
            obtain ⟨k1, v1⟩ := d
            simp [Memory.wf] at h
            simp at he
            subst he
            simpa [h2] using h.1.2
        · simp [h2, hb, Memory.read]
      · simp only [h1, h2, if_false, Memory.read]
        exact ih hm

@[simp] theorem Memory.read_write_ne (m : Memory) {a c : Nat} (b : Byte) (h : c ≠ a) :
    Memory.read (Memory.write m a b) c = Memory.read m c := by
  induction m with
  | nil => by_cases hb : b = 0#8 <;> simp [Memory.write, Memory.read, hb, h]
  | cons e m ih =>
    obtain ⟨k, v⟩ := e
    simp only [Memory.write, BitVec.ofNat_eq_ofNat]
    by_cases h1 : a < k
    · by_cases hb : b = 0#8 <;> simp [h1, hb, Memory.read, h]
    · by_cases h2 : a = k
      · by_cases hb : b = 0#8
        · have : c ≠ k := h2 ▸ h
          simp [h1, h2, hb, Memory.read, this]
        · have : c ≠ k := h2 ▸ h
          simp [h2, hb, Memory.read, this]
      · simp only [h1, h2, if_false, Memory.read, ih]

/-! ### The canonical form -/

theorem Memory.wf_iff (m : Memory) :
    Memory.wf m = true ↔ m.Pairwise (fun x y => x.1 < y.1) ∧ ∀ c ∈ m, c.2 ≠ 0 := by
  induction m with
  | nil => simp [Memory.wf]
  | cons c m ih =>
    obtain ⟨k, v⟩ := c
    cases m with
    | nil => simp [Memory.wf]
    | cons d m =>
      obtain ⟨k1, v1⟩ := d
      rw [List.pairwise_cons]
      simp only [Memory.wf, Bool.and_eq_true, bne_iff_ne, decide_eq_true_eq, ih, List.mem_cons, forall_eq_or_imp]
      constructor
      · rintro ⟨⟨h1, h2⟩, h3, h4⟩
        refine ⟨⟨⟨h2, ?_⟩, h3⟩, h1, h4⟩
        intro e he
        exact lt_trans h2 (List.rel_of_pairwise_cons h3 he)
      · rintro ⟨⟨⟨h2, _⟩, h3⟩, h1, h4⟩
        exact ⟨⟨h1, h2⟩, h3, h4⟩

theorem Memory.write_mem (m : Memory) (a : Nat) (b : Byte) : ∀ e ∈ Memory.write m a b, e = (a, b) ∧ b ≠ 0 ∨ e ∈ m := by
  induction m with
  | nil =>
    intro e he
    by_cases hb : b = 0#8
    · simp [Memory.write, hb] at he
    · simp [Memory.write, hb] at he
      exact .inl ⟨he, hb⟩
  | cons c m ih =>
    obtain ⟨k, v⟩ := c
    intro e he
    simp only [Memory.write, BitVec.ofNat_eq_ofNat] at he
    by_cases h1 : a < k
    · by_cases hb : b = 0#8
      · simp only [h1, hb, if_true] at he
        exact .inr he
      · simp only [h1, hb, if_true, if_false, List.mem_cons] at he
        rcases he with rfl | he
        · exact .inl ⟨rfl, hb⟩
        · exact .inr (by simpa using he)
    · by_cases h2 : a = k
      · by_cases hb : b = 0#8
        · simp only [h1, h2, hb, if_true, if_false] at he
          exact .inr (by simp only [List.mem_cons]; exact .inr (by simpa using he))
        · simp only [h1, if_false, if_pos h2, if_neg hb, List.mem_cons] at he
          rcases he with rfl | he
          · exact .inl ⟨by rw [h2], hb⟩
          · exact .inr (by simp [he])
      · simp only [h1, h2, if_false, List.mem_cons] at he
        rcases he with rfl | he
        · exact .inr (by simp)
        · rcases ih e he with h | h
          · exact .inl h
          · exact .inr (by simp [h])

/-- A write of one byte keeps the canonical form. -/
theorem Memory.write_wf {m : Memory} (h : Memory.wf m = true) (a : Nat) (b : Byte) : Memory.wf (Memory.write m a b) = true := by
  rw [Memory.wf_iff] at h ⊢
  obtain ⟨hp, hz⟩ := h
  refine ⟨?_, ?_⟩
  · induction m with
    | nil => by_cases hb : b = 0#8 <;> simp [Memory.write, hb]
    | cons c m ih =>
      obtain ⟨k, v⟩ := c
      rw [List.pairwise_cons] at hp
      have ih' := ih hp.2 (fun e he => hz e (by simp [he]))
      simp only [Memory.write, BitVec.ofNat_eq_ofNat]
      by_cases h1 : a < k
      · by_cases hb : b = 0#8
        · simp only [h1, hb, if_true]
          rw [List.pairwise_cons]
          exact hp
        · simp only [h1, hb, if_true, if_false]
          rw [List.pairwise_cons, List.pairwise_cons]
          refine ⟨?_, hp⟩
          intro e he
          simp only [List.mem_cons] at he
          rcases he with rfl | he
          · exact h1
          · exact lt_trans h1 (hp.1 e he)
      · by_cases h2 : a = k
        · by_cases hb : b = 0#8
          · simp only [h1, h2, hb, if_true, if_false, lt_irrefl]
            exact hp.2
          · simp only [h1, if_pos h2, hb, if_false]
            rw [List.pairwise_cons]
            exact hp
        · simp only [h1, h2, if_false]
          rw [List.pairwise_cons]
          refine ⟨?_, ih'⟩
          intro e he
          rcases Memory.write_mem m a b e he with ⟨rfl, _⟩ | he
          · simp only
            omega
          · exact hp.1 e he
  · intro e he
    rcases Memory.write_mem m a b e he with ⟨rfl, hb⟩ | he
    · exact hb
    · exact hz e he

theorem Memory.writeN_wf {m : Memory} (h : Memory.wf m = true) (a : Nat) (bs : List Byte) :
    Memory.wf (Memory.writeN m a bs) = true := by
  induction bs generalizing m a with
  | nil => exact h
  | cons b bs ih => exact ih (Memory.write_wf h a b) (a + 1)

/-- Taking bytes away keeps the canonical form. -/
theorem Memory.filter_wf {m : Memory} (h : Memory.wf m = true) (p : Host.Cell → Bool) : Memory.wf (m.filter p) = true := by
  rw [Memory.wf_iff] at h ⊢
  exact ⟨h.1.filter p, fun c hc => h.2 c (List.mem_filter.1 hc).1⟩

/-- A byte below the written range stays. -/
theorem Memory.read_writeN_below (m : Memory) (a : Nat) (bs : List Byte) (c : Nat) (h : c < a) :
    Memory.read (Memory.writeN m a bs) c = Memory.read m c := by
  induction bs generalizing m a with
  | nil => rfl
  | cons b bs ih =>
    simp only [Memory.writeN]
    rw [ih (Memory.write m a b) (a + 1) (by omega), Memory.read_write_ne m b (by omega)]

/-- A byte above the written range stays. -/
theorem Memory.read_writeN_above (m : Memory) (a : Nat) (bs : List Byte) (c : Nat) (h : a + bs.length ≤ c) :
    Memory.read (Memory.writeN m a bs) c = Memory.read m c := by
  induction bs generalizing m a with
  | nil => rfl
  | cons b bs ih =>
    simp only [List.length_cons] at h
    simp only [Memory.writeN]
    rw [ih (Memory.write m a b) (a + 1) (by omega), Memory.read_write_ne m b (by omega)]

/-- Every byte of the written range is the one written. -/
theorem Memory.read_writeN_in {m : Memory} (h : Memory.wf m = true) (a : Nat) (bs : List Byte) (i : Nat) (hi : i < bs.length) :
    Memory.read (Memory.writeN m a bs) (a + i) = bs[i] := by
  induction bs generalizing m a i with
  | nil => simp at hi
  | cons b bs ih =>
    simp only [Memory.writeN]
    cases i with
    | zero =>
      simp only [Nat.add_zero, List.getElem_cons_zero]
      rw [Memory.read_writeN_below _ _ _ _ (by omega), Memory.read_write_same m a b h]
    | succ i =>
      have := ih (Memory.write_wf h a b) (a + 1) i (by simpa using hi)
      simpa [Nat.add_assoc, Nat.add_comm 1] using this

/-! ### Leaf and heartwood memories -/

@[simp] theorem Mem.setPoison_bytes (m : Mem) (gr : Nat) : (m.setPoison gr).1.bytes = m.bytes := by
  unfold Mem.setPoison; split <;> rfl
@[simp] theorem Mem.clearPoison_bytes (m : Mem) (gr : Nat) : (m.clearPoison gr).bytes = m.bytes := rfl
@[simp] theorem Mem.checkGran_bytes (g : Nat) (m : Mem) (gr : Nat) : (Mem.checkGran g m gr).1.bytes = m.bytes := by
  unfold Mem.checkGran; dsimp only; split <;> simp
@[simp] theorem Mem.checkAll_bytes (g : Nat) (m : Mem) (grs : List Nat) : (Mem.checkAll g m grs).1.bytes = m.bytes := by
  induction grs generalizing m with
  | nil => rfl
  | cons gr grs ih => simp [Mem.checkAll, ih]
@[simp] theorem Mem.readAcc_bytes (g : Nat) (m : Mem) (a n : Nat) : (m.readAcc g a n).2.2.1.bytes = m.bytes := by
  simp [Mem.readAcc]
/-- What a read returns: the bytes that stand there. -/
@[simp] theorem Mem.readAcc_data (g : Nat) (m : Mem) (a n : Nat) : (m.readAcc g a n).1 = Memory.readN m.bytes a n := by
  simp [Mem.readAcc]
@[simp] theorem Mem.mergeGran_bytes (g : Nat) (m : Mem) (a n gr : Nat) : (Mem.mergeGran g m a n gr).1.bytes = m.bytes := by
  unfold Mem.mergeGran
  dsimp only
  split
  · simp
  · split <;> simp
@[simp] theorem Mem.mergeAll_bytes (g : Nat) (m : Mem) (a n : Nat) (grs : List Nat) :
    (Mem.mergeAll g m a n grs).1.bytes = m.bytes := by
  induction grs generalizing m with
  | nil => rfl
  | cons gr grs ih => simp [Mem.mergeAll, ih]
/-- What a write leaves: the bytes written, and nothing else changed. -/
@[simp] theorem Mem.writeAcc_bytes (g : Nat) (m : Mem) (a : Nat) (bs : List Byte) :
    (m.writeAcc g a bs).1.bytes = Memory.writeN m.bytes a bs := by
  simp [Mem.writeAcc]

theorem Mem.writeAcc_wf {m : Mem} (h : m.wf = true) (g a : Nat) (bs : List Byte) : (m.writeAcc g a bs).1.wf = true := by
  unfold Mem.wf at *
  rw [Mem.writeAcc_bytes]
  exact Memory.writeN_wf h a bs
theorem Mem.readAcc_wf {m : Mem} (h : m.wf = true) (g a n : Nat) : (m.readAcc g a n).2.2.1.wf = true := by
  unfold Mem.wf at *
  rwa [Mem.readAcc_bytes]
theorem Mem.setPoison_wf {m : Mem} (h : m.wf = true) (gr : Nat) : (m.setPoison gr).1.wf = true := by
  unfold Mem.wf at *
  rwa [Mem.setPoison_bytes]
theorem Mem.zeroRange_wf {m : Mem} (h : m.wf = true) (g a n : Nat) : (m.zeroRange g a n).wf = true :=
  Memory.filter_wf h _
theorem Mem.scrub_wf {m : Mem} (h : m.wf = true) (w : Nat) : (m.scrub w).wf = true := by
  unfold Mem.scrub; split <;> exact h

/-- Every byte of a zeroed range reads 0, and every other byte stays. -/
theorem Mem.zeroRange_read {m : Mem} (g a n c : Nat) :
    Memory.read (m.zeroRange g a n).bytes c = if a ≤ c ∧ c < a + n then 0 else Memory.read m.bytes c := by
  unfold Mem.zeroRange
  dsimp only
  induction m.bytes with
  | nil => simp [Memory.read]
  | cons e l ih =>
    obtain ⟨k, v⟩ := e
    by_cases hk : a ≤ k ∧ k < a + n
    · rw [List.filter_cons_of_neg (by simp [hk.1, hk.2]), ih]
      by_cases hc : a ≤ c ∧ c < a + n
      · simp [hc]
      · have : c ≠ k := fun h => hc (h ▸ hk)
        simp [hc, Memory.read, this]
    · rw [List.filter_cons_of_pos (by simp only [Bool.not_eq_true', Bool.and_eq_false_iff, decide_eq_false_iff_not]; omega)]
      by_cases hck : c = k
      · subst hck
        simp [Memory.read, hk]
      · simp only [Memory.read, hck, if_false, ih]

/-! ### Memories of a package -/

theorem Package.memWf_default : ({} : Package).memWf := ⟨fun _ => rfl, rfl, rfl⟩

theorem Package.heart_wf {P : Package} (h : P.memWf) (x : Half) : (P.heart x).wf = true := by
  cases x
  · exact h.2.1
  · exact h.2.2

/-- A change of one bole that keeps its leaf memory's form. -/
theorem Package.memWf_updBole {P : Package} (h : P.memWf) (k : Nat) (f : Bole → Bole)
    (hf : ((f (P.bole k)).leaf.mem).wf = true) : (P.updBole k f).memWf := by
  refine ⟨fun j => ?_, h.2.1, h.2.2⟩
  by_cases hj : j = k
  · subst hj
    rw [Package.bole, Package.updBole, Tab.upd, Tab.get_set]
    simpa [Package.bole] using hf
  · have : (P.updBole k f).bole j = P.bole j := by
      rw [Package.bole, Package.updBole, Tab.upd, Tab.get_set, if_neg hj]
      rfl
    rw [this]
    exact h.1 j

/-- A change that touches neither boles nor heartwood. -/
theorem Package.memWf_congr {P Q : Package} (h : P.memWf) (hb : Q.boles = P.boles) (hw : Q.west = P.west)
    (he : Q.east = P.east) : Q.memWf := by
  refine ⟨fun k => ?_, hw ▸ h.2.1, he ▸ h.2.2⟩
  unfold Package.bole
  rw [hb]
  exact h.1 k

theorem Package.memWf_setHeart {P : Package} (h : P.memWf) (x : Half) {m : Mem} (hm : m.wf = true) : (P.setHeart x m).memWf := by
  cases x
  · exact ⟨h.1, hm, h.2.2⟩
  · exact ⟨h.1, h.2.1, hm⟩

@[simp] theorem Bole.memEv_leaf (b : Bole) (e : MemEv) : (b.memEv e).leaf = b.leaf := rfl

theorem Package.memWf_count {P : Package} (h : P.memWf) (k j n : Nat) : (P.count k j n).memWf :=
  Package.memWf_updBole h k _ (h.1 k)

theorem Package.memWf_leafRead {P : Package} (h : P.memWf) (k a n : Nat) : (P.leafRead k a n).2.2.memWf :=
  Package.memWf_updBole h k _ (Mem.readAcc_wf (h.1 k) 64 a n)
theorem Package.memWf_leafWrite {P : Package} (h : P.memWf) (k a : Nat) (bs : List Byte) : (P.leafWrite k a bs).memWf :=
  Package.memWf_updBole h k _ (Mem.writeAcc_wf (h.1 k) 64 a bs)
theorem Package.memWf_leafPoison {P : Package} (h : P.memWf) (k gr : Nat) : (P.leafPoison k gr).memWf :=
  Package.memWf_updBole h k _ (Mem.setPoison_wf (h.1 k) gr)
theorem Package.memWf_heartRead {P : Package} (h : P.memWf) (x : Half) (o n : Nat) : (P.heartRead x o n).2.2.memWf :=
  Package.memWf_setHeart h x (Mem.readAcc_wf (Package.heart_wf h x) 128 o n)
theorem Package.memWf_heartWrite {P : Package} (h : P.memWf) (x : Half) (o : Nat) (bs : List Byte) : (P.heartWrite x o bs).memWf :=
  Package.memWf_setHeart h x (Mem.writeAcc_wf (Package.heart_wf h x) 128 o bs)
theorem Package.memWf_memRead {P : Package} (h : P.memWf) (k a n : Nat) : (P.memRead k a n).2.2.memWf := by
  unfold Package.memRead
  split
  · exact Package.memWf_leafRead h k _ n
  · exact Package.memWf_heartRead h _ _ n
  · exact h
/-- A store at a local address keeps every memory in the canonical form. -/
theorem Package.memWf_memWrite {P : Package} (h : P.memWf) (k a : Nat) (bs : List Byte) : (P.memWrite k a bs).memWf := by
  unfold Package.memWrite
  split
  · exact Package.memWf_leafWrite h k _ bs
  · exact Package.memWf_heartWrite h _ _ bs
  · exact h

end Sys2Proof.Machine
end

