-- ==== Sys2Proof/Laws/Packets.lean ====
section
/-! SUPPORT. Packets as mkPacket builds them: their payload, and that they pass their ECRC. -/

namespace Sys2Proof
open Machine

/-- Bytes above the n that are written do not matter. -/
theorem leBytes_add (n v e : Nat) : leBytes n (v + 256 ^ n * e) = leBytes n v := by
  unfold leBytes
  refine List.map_congr_left fun i hi => ?_
  obtain ⟨j, rfl⟩ : ∃ j, n = i + (j + 1) := ⟨n - i - 1, by have := List.mem_range.mp hi; omega⟩
  have : 256 ^ (i + (j + 1)) * e = 256 ^ i * (256 * (256 ^ j * e)) := by rw [pow_add, pow_succ]; ring
  rw [this, Nat.add_mul_div_left _ _ (Nat.pow_pos (by decide))]
  apply BitVec.eq_of_toNat_eq
  simp only [BitVec.toNat_ofNat]
  exact Nat.add_mul_mod_self_left _ _ _

/-- The ECRC covers neither POISON nor the ECRC field itself (R161). -/
theorem ecrcOf_field (h : Head) (e : Nat) (b : Bool) (pay : List Byte) :
    ecrcOf { h with ecrc := e, poison := b } pay = ecrcOf h pay := by
  unfold ecrcOf
  have : ({ h with ecrc := e, vc := 0, poison := false } : Head).value =
      ({ h with ecrc := 0, vc := 0, poison := false } : Head).value + 256 ^ 14 * e := by
    unfold Head.value; norm_num
  have h2 : ({ h with vc := 0, poison := false } : Head).value =
      ({ h with ecrc := 0, vc := 0, poison := false } : Head).value + 256 ^ 14 * h.ecrc := by
    unfold Head.value; norm_num
  simp only [this, h2, leBytes_add]

theorem chunks64_flatten (n : Nat) (bs : List Byte) (h : bs.length = 64 * n) : (chunks64 n bs).flatten = bs := by
  induction n generalizing bs with
  | zero => simp at h; simp [chunks64, h]
  | succ n ih =>
    have : padTo 64 bs = bs.take 64 := by
      unfold padTo; simp; omega
    rw [chunks64, List.flatten_cons, this, ih _ (by simp; omega), List.take_append_drop]

theorem padTo_length (n : Nat) (bs : List Byte) : (padTo n bs).length = n := by unfold padTo; simp; omega

theorem payloadOf_mkPacket (h : Head) (n : Nat) (pay : List Byte) (ps : List Bool) :
    payloadOf (mkPacket h n pay ps) = padTo (64 * n) pay := by
  have key : ∀ (l : List (List Byte)) (j : Nat) (f : List Byte × Nat → Flit), (∀ x, (f x).data = x.1) →
      ((l.zipIdx j).map f).flatMap (fun g => g.data) = l.flatten := by
    intro l
    induction l with
    | nil => intros; rfl
    | cons a l ih => intro j f hf; simp [List.zipIdx_cons, hf, ih (j + 1) f hf]
  unfold payloadOf mkPacket
  rw [key _ 0]
  · exact chunks64_flatten n _ (padTo_length _ _)
  · rintro ⟨d, i⟩; simp only; split <;> rfl

/-- A packet that mkPacket builds passes its ECRC at its destination (R161, R249). -/
theorem ecrcGood_mkPacket (h : Head) (n : Nat) (pay : List Byte) (ps : List Bool) (hn : n ≠ 0) :
    ecrcGood (mkPacket h n pay ps) = true := by
  have hp := payloadOf_mkPacket h n pay ps
  obtain ⟨m, rfl⟩ := Nat.exists_eq_succ_of_ne_zero hn
  unfold ecrcGood
  generalize hq : mkPacket h (m + 1) pay ps = q at hp ⊢
  unfold mkPacket at hq
  simp only [chunks64, List.zipIdx_cons, List.map_cons] at hq
  subst hq
  simp only [if_pos, beq_iff_eq] at *
  rw [hp]
  exact (ecrcOf_field _ _ _ _).symm
end Sys2Proof
end

