-- ==== Sys2Proof/Laws/State.lean ====
section
/-! SUPPORT. What each update of the state changes and what it leaves, one lemma per part. -/

namespace Sys2Proof.Machine

/-! ### The state -/

@[simp] theorem State.pkg_setPkg_same (s : State) (p : Nat) (P : Package) : (s.setPkg p P).pkg p = P := by
  simp [State.pkg, State.setPkg]
@[simp] theorem State.pkg_setPkg_ne (s : State) {p q : Nat} (P : Package) (h : q ≠ p) :
    (s.setPkg p P).pkg q = s.pkg q := by
  simp [State.pkg, State.setPkg, h]
@[simp] theorem State.pkg_updPkg_same (s : State) (p : Nat) (f : Package → Package) :
    (s.updPkg p f).pkg p = f (s.pkg p) := by
  simp [State.updPkg]
@[simp] theorem State.pkg_updPkg_ne (s : State) {p q : Nat} (f : Package → Package) (h : q ≠ p) :
    (s.updPkg p f).pkg q = s.pkg q := by
  simp [State.updPkg, h]
@[simp] theorem State.setPkg_setPkg (s : State) (p : Nat) (P Q : Package) : (s.setPkg p P).setPkg p Q = s.setPkg p Q := by
  simp [State.setPkg]

@[simp] theorem State.stands_setPkg (s : State) (p : Nat) (P : Package) : (s.setPkg p P).stands = s.stands := rfl
@[simp] theorem State.now_setPkg (s : State) (p : Nat) (P : Package) : (s.setPkg p P).now = s.now := rfl
@[simp] theorem State.freeCtr_setPkg (s : State) (p : Nat) (P : Package) : (s.setPkg p P).freeCtr = s.freeCtr := rfl
@[simp] theorem State.pending_setPkg (s : State) (p : Nat) (P : Package) : (s.setPkg p P).pending = s.pending := rfl
@[simp] theorem State.stands_updPkg (s : State) (p : Nat) (f : Package → Package) : (s.updPkg p f).stands = s.stands := rfl
@[simp] theorem State.now_updPkg (s : State) (p : Nat) (f : Package → Package) : (s.updPkg p f).now = s.now := rfl
@[simp] theorem State.freeCtr_updPkg (s : State) (p : Nat) (f : Package → Package) : (s.updPkg p f).freeCtr = s.freeCtr := rfl
@[simp] theorem State.pending_updPkg (s : State) (p : Nat) (f : Package → Package) : (s.updPkg p f).pending = s.pending := rfl
@[simp] theorem State.stand_setPkg (s : State) (p n : Nat) (P : Package) : (s.setPkg p P).stand n = s.stand n := rfl
@[simp] theorem State.stand_updPkg (s : State) (p n : Nat) (f : Package → Package) : (s.updPkg p f).stand n = s.stand n := rfl

@[simp] theorem State.stand_updStand_same (s : State) (n : Nat) (f : Rootstock → Rootstock) :
    (s.updStand n f).stand n = f (s.stand n) := by
  simp [State.updStand, State.stand]
@[simp] theorem State.stand_updStand_ne (s : State) {n m : Nat} (f : Rootstock → Rootstock) (h : m ≠ n) :
    (s.updStand n f).stand m = s.stand m := by
  simp [State.updStand, State.stand, h]
@[simp] theorem State.pkg_updStand (s : State) (n p : Nat) (f : Rootstock → Rootstock) :
    (s.updStand n f).pkg p = s.pkg p := rfl
@[simp] theorem State.pkgs_updStand (s : State) (n : Nat) (f : Rootstock → Rootstock) : (s.updStand n f).pkgs = s.pkgs := rfl
@[simp] theorem State.now_updStand (s : State) (n : Nat) (f : Rootstock → Rootstock) : (s.updStand n f).now = s.now := rfl
@[simp] theorem State.freeCtr_updStand (s : State) (n : Nat) (f : Rootstock → Rootstock) :
    (s.updStand n f).freeCtr = s.freeCtr := rfl
@[simp] theorem State.pending_updStand (s : State) (n : Nat) (f : Rootstock → Rootstock) :
    (s.updStand n f).pending = s.pending := rfl

@[simp] theorem State.pkg_bump (s : State) (p : Nat) : s.bump.pkg p = s.pkg p := rfl
@[simp] theorem State.pkgs_bump (s : State) : s.bump.pkgs = s.pkgs := rfl
@[simp] theorem State.stands_bump (s : State) : s.bump.stands = s.stands := rfl
@[simp] theorem State.now_bump (s : State) : s.bump.now = s.now := rfl
@[simp] theorem State.pending_bump (s : State) : s.bump.pending = s.pending := rfl
@[simp] theorem State.freeCtr_bump (s : State) : s.bump.freeCtr = s.freeCtr + 1 := rfl

/-- In a package that runs, an event has its effect. -/
theorem State.onLive_live {s : State} {p : Nat} (f : Package → Package) (h : (s.pkg p).live = true) :
    s.onLive p f = s.updPkg p f := by
  simp [State.onLive, h]
/-- Elsewhere it has none. -/
theorem State.onLive_dead {s : State} {p : Nat} (f : Package → Package) (h : (s.pkg p).live = false) : s.onLive p f = s := by
  simp [State.onLive, h]
/-- All that an event in a package can do: nothing, or a change of that package. -/
theorem State.onLive_cases (s : State) (p : Nat) (f : Package → Package) :
    s.onLive p f = s ∨ s.onLive p f = s.setPkg p (f (s.pkg p)) := by
  unfold State.onLive
  split
  · exact .inr rfl
  · exact .inl rfl
@[simp] theorem State.pending_onLive (s : State) (p : Nat) (f : Package → Package) : (s.onLive p f).pending = s.pending := by
  rcases State.onLive_cases s p f with h | h <;> simp [h]
@[simp] theorem State.now_onLive (s : State) (p : Nat) (f : Package → Package) : (s.onLive p f).now = s.now := by
  rcases State.onLive_cases s p f with h | h <;> simp [h]
@[simp] theorem State.stands_onLive (s : State) (p : Nat) (f : Package → Package) : (s.onLive p f).stands = s.stands := by
  rcases State.onLive_cases s p f with h | h <;> simp [h]
@[simp] theorem State.pkg_onLive_ne (s : State) {p q : Nat} (f : Package → Package) (h : q ≠ p) :
    (s.onLive p f).pkg q = s.pkg q := by
  rcases State.onLive_cases s p f with h' | h' <;> simp [h', h]
@[simp] theorem State.now_idle (s : State) : s.idle.now = s.now + 1 := rfl
@[simp] theorem State.pending_idle (s : State) : s.idle.pending = s.pending := rfl
@[simp] theorem State.stands_idle (s : State) : s.idle.stands = s.stands := rfl
@[simp] theorem State.freeCtr_idle (s : State) : s.idle.freeCtr = s.freeCtr := rfl
@[simp] theorem State.inCycle_false (s : State) : s.inCycle false = s := rfl
@[simp] theorem State.inCycle_true (s : State) : s.inCycle true = s.idle := rfl
@[simp] theorem State.pending_inCycle (s : State) (b : Bool) : (s.inCycle b).pending = s.pending := by cases b <;> rfl
@[simp] theorem State.stands_inCycle (s : State) (b : Bool) : (s.inCycle b).stands = s.stands := by cases b <;> rfl
@[simp] theorem State.freeCtr_inCycle (s : State) (b : Bool) : (s.inCycle b).freeCtr = s.freeCtr := by cases b <;> rfl

/-- A row that takes a cycle of its own comes in this cycle, or in the next one. -/
theorem State.inCycle_cases (s : State) (b : Bool) :
    b = false ∧ s.inCycle b = s ∨ b = true ∧ s.inCycle b = s.idle := by
  cases b
  · exact .inl ⟨rfl, rfl⟩
  · exact .inr ⟨rfl, rfl⟩

@[simp] theorem State.pending_onPowered (s : State) (p : Nat) (f : Package → Package) :
    (s.onPowered p f).pending = s.pending := by
  unfold State.onPowered; split <;> simp
@[simp] theorem State.now_onPowered (s : State) (p : Nat) (f : Package → Package) : (s.onPowered p f).now = s.now := by
  unfold State.onPowered; split <;> simp

/-! ### Parts of a package -/

@[simp] theorem Package.bole_updBole_same (P : Package) (k : Nat) (f : Bole → Bole) :
    (P.updBole k f).bole k = f (P.bole k) := by simp [Package.bole, Package.updBole]
@[simp] theorem Package.bole_updBole_ne (P : Package) {k j : Nat} (f : Bole → Bole) (h : j ≠ k) :
    (P.updBole k f).bole j = P.bole j := by simp [Package.bole, Package.updBole, h]
@[simp] theorem Package.fn_updFn_same (P : Package) (f : Nat) (g : Func → Func) : (P.updFn f g).fn f = g (P.fn f) := by
  simp [Package.fn, Package.updFn]
@[simp] theorem Package.fn_updFn_ne (P : Package) {f e : Nat} (g : Func → Func) (h : e ≠ f) :
    (P.updFn f g).fn e = P.fn e := by simp [Package.fn, Package.updFn, h]
@[simp] theorem Package.link_updLink_same (P : Package) (l : Nat) (f : Link → Link) :
    (P.updLink l f).link l = f (P.link l) := by simp [Package.link, Package.updLink]
@[simp] theorem Package.link_updLink_ne (P : Package) {l j : Nat} (f : Link → Link) (h : j ≠ l) :
    (P.updLink l f).link j = P.link j := by simp [Package.link, Package.updLink, h]
@[simp] theorem Package.rtr_updRtr_same (P : Package) (r : Nat) (f : Router → Router) :
    (P.updRtr r f).rtr r = f (P.rtr r) := by simp [Package.rtr, Package.updRtr]
@[simp] theorem Package.rtr_updRtr_ne (P : Package) {r j : Nat} (f : Router → Router) (h : j ≠ r) :
    (P.updRtr r f).rtr j = P.rtr j := by simp [Package.rtr, Package.updRtr, h]
@[simp] theorem Package.arb_updArb_same (P : Package) (i : Nat) (f : Arb → Arb) : (P.updArb i f).arb i = f (P.arb i) := by
  simp [Package.arb, Package.updArb]
@[simp] theorem Package.arb_updArb_ne (P : Package) {i j : Nat} (f : Arb → Arb) (h : j ≠ i) :
    (P.updArb i f).arb j = P.arb j := by simp [Package.arb, Package.updArb, h]
@[simp] theorem Func.ring_updRing_same (F : Func) (r : Nat) (g : Ring → Ring) : (F.updRing r g).ring r = g (F.ring r) := by
  simp [Func.ring, Func.updRing]
@[simp] theorem Func.ring_updRing_ne (F : Func) {r j : Nat} (g : Ring → Ring) (h : j ≠ r) :
    (F.updRing r g).ring j = F.ring j := by simp [Func.ring, Func.updRing, h]
@[simp] theorem Package.ring_updRing_same (P : Package) (f r : Nat) (g : Ring → Ring) :
    (P.updRing f r g).ring f r = g (P.ring f r) := by simp [Package.ring, Package.updRing]

@[simp] theorem Package.powered_updBole (P : Package) (k : Nat) (f : Bole → Bole) : (P.updBole k f).powered = P.powered := rfl
@[simp] theorem Package.ready_updBole (P : Package) (k : Nat) (f : Bole → Bole) : (P.updBole k f).ready = P.ready := rfl
@[simp] theorem Package.failed_updBole (P : Package) (k : Nat) (f : Bole → Bole) : (P.updBole k f).failed = P.failed := rfl
@[simp] theorem Package.reset_updBole (P : Package) (k : Nat) (f : Bole → Bole) : (P.updBole k f).reset = P.reset := rfl
@[simp] theorem Package.thermal_updBole (P : Package) (k : Nat) (f : Bole → Bole) : (P.updBole k f).thermal = P.thermal := rfl
@[simp] theorem Package.tk_updBole (P : Package) (k : Nat) (f : Bole → Bole) : (P.updBole k f).tk = P.tk := rfl
@[simp] theorem Package.tok_updBole (P : Package) (k : Nat) (f : Bole → Bole) : (P.updBole k f).tok = P.tok := rfl
@[simp] theorem Package.rt_updBole (P : Package) (k : Nat) (f : Bole → Bole) : (P.updBole k f).rt = P.rt := rfl
@[simp] theorem Package.repair_updBole (P : Package) (k : Nat) (f : Bole → Bole) : (P.updBole k f).repair = P.repair := rfl
@[simp] theorem Package.comm_updBole (P : Package) (k : Nat) (f : Bole → Bole) : (P.updBole k f).comm = P.comm := rfl
@[simp] theorem Package.stag_updBole (P : Package) (k : Nat) (f : Bole → Bole) : (P.updBole k f).stag = P.stag := rfl
@[simp] theorem Package.fns_updBole (P : Package) (k : Nat) (f : Bole → Bole) : (P.updBole k f).fns = P.fns := rfl
@[simp] theorem Package.west_updBole (P : Package) (k : Nat) (f : Bole → Bole) : (P.updBole k f).west = P.west := rfl
@[simp] theorem Package.east_updBole (P : Package) (k : Nat) (f : Bole → Bole) : (P.updBole k f).east = P.east := rfl
@[simp] theorem Package.rtrs_updBole (P : Package) (k : Nat) (f : Bole → Bole) : (P.updBole k f).rtrs = P.rtrs := rfl
@[simp] theorem Package.arbs_updBole (P : Package) (k : Nat) (f : Bole → Bole) : (P.updBole k f).arbs = P.arbs := rfl
@[simp] theorem Package.links_updBole (P : Package) (k : Nat) (f : Bole → Bole) : (P.updBole k f).links = P.links := rfl
@[simp] theorem Package.latches_updBole (P : Package) (k : Nat) (f : Bole → Bole) : (P.updBole k f).latches = P.latches := rfl
@[simp] theorem Package.parts_updBole (P : Package) (k : Nat) (f : Bole → Bole) : (P.updBole k f).parts = P.parts := rfl
@[simp] theorem Package.live_updBole (P : Package) (k : Nat) (f : Bole → Bole) : (P.updBole k f).live = P.live := rfl
@[simp] theorem Package.fn_updBole (P : Package) (k : Nat) (f : Bole → Bole) (j : Nat) : (P.updBole k f).fn j = P.fn j := rfl
@[simp] theorem Package.link_updBole (P : Package) (k : Nat) (f : Bole → Bole) (j : Nat) : (P.updBole k f).link j = P.link j := rfl
@[simp] theorem Package.rtr_updBole (P : Package) (k : Nat) (f : Bole → Bole) (j : Nat) : (P.updBole k f).rtr j = P.rtr j := rfl
@[simp] theorem Package.arb_updBole (P : Package) (k : Nat) (f : Bole → Bole) (j : Nat) : (P.updBole k f).arb j = P.arb j := rfl
@[simp] theorem Package.powered_updFn (P : Package) (k : Nat) (f : Func → Func) : (P.updFn k f).powered = P.powered := rfl
@[simp] theorem Package.ready_updFn (P : Package) (k : Nat) (f : Func → Func) : (P.updFn k f).ready = P.ready := rfl
@[simp] theorem Package.failed_updFn (P : Package) (k : Nat) (f : Func → Func) : (P.updFn k f).failed = P.failed := rfl
@[simp] theorem Package.reset_updFn (P : Package) (k : Nat) (f : Func → Func) : (P.updFn k f).reset = P.reset := rfl
@[simp] theorem Package.thermal_updFn (P : Package) (k : Nat) (f : Func → Func) : (P.updFn k f).thermal = P.thermal := rfl
@[simp] theorem Package.tk_updFn (P : Package) (k : Nat) (f : Func → Func) : (P.updFn k f).tk = P.tk := rfl
@[simp] theorem Package.tok_updFn (P : Package) (k : Nat) (f : Func → Func) : (P.updFn k f).tok = P.tok := rfl
@[simp] theorem Package.rt_updFn (P : Package) (k : Nat) (f : Func → Func) : (P.updFn k f).rt = P.rt := rfl
@[simp] theorem Package.repair_updFn (P : Package) (k : Nat) (f : Func → Func) : (P.updFn k f).repair = P.repair := rfl
@[simp] theorem Package.comm_updFn (P : Package) (k : Nat) (f : Func → Func) : (P.updFn k f).comm = P.comm := rfl
@[simp] theorem Package.stag_updFn (P : Package) (k : Nat) (f : Func → Func) : (P.updFn k f).stag = P.stag := rfl
@[simp] theorem Package.boles_updFn (P : Package) (k : Nat) (f : Func → Func) : (P.updFn k f).boles = P.boles := rfl
@[simp] theorem Package.west_updFn (P : Package) (k : Nat) (f : Func → Func) : (P.updFn k f).west = P.west := rfl
@[simp] theorem Package.east_updFn (P : Package) (k : Nat) (f : Func → Func) : (P.updFn k f).east = P.east := rfl
@[simp] theorem Package.rtrs_updFn (P : Package) (k : Nat) (f : Func → Func) : (P.updFn k f).rtrs = P.rtrs := rfl
@[simp] theorem Package.arbs_updFn (P : Package) (k : Nat) (f : Func → Func) : (P.updFn k f).arbs = P.arbs := rfl
@[simp] theorem Package.links_updFn (P : Package) (k : Nat) (f : Func → Func) : (P.updFn k f).links = P.links := rfl
@[simp] theorem Package.latches_updFn (P : Package) (k : Nat) (f : Func → Func) : (P.updFn k f).latches = P.latches := rfl
@[simp] theorem Package.parts_updFn (P : Package) (k : Nat) (f : Func → Func) : (P.updFn k f).parts = P.parts := rfl
@[simp] theorem Package.live_updFn (P : Package) (k : Nat) (f : Func → Func) : (P.updFn k f).live = P.live := rfl
@[simp] theorem Package.bole_updFn (P : Package) (k : Nat) (f : Func → Func) (j : Nat) : (P.updFn k f).bole j = P.bole j := rfl
@[simp] theorem Package.link_updFn (P : Package) (k : Nat) (f : Func → Func) (j : Nat) : (P.updFn k f).link j = P.link j := rfl
@[simp] theorem Package.rtr_updFn (P : Package) (k : Nat) (f : Func → Func) (j : Nat) : (P.updFn k f).rtr j = P.rtr j := rfl
@[simp] theorem Package.arb_updFn (P : Package) (k : Nat) (f : Func → Func) (j : Nat) : (P.updFn k f).arb j = P.arb j := rfl
@[simp] theorem Package.powered_updRt (P : Package) (f : RootBlk → RootBlk) : (P.updRt f).powered = P.powered := rfl
@[simp] theorem Package.ready_updRt (P : Package) (f : RootBlk → RootBlk) : (P.updRt f).ready = P.ready := rfl
@[simp] theorem Package.failed_updRt (P : Package) (f : RootBlk → RootBlk) : (P.updRt f).failed = P.failed := rfl
@[simp] theorem Package.reset_updRt (P : Package) (f : RootBlk → RootBlk) : (P.updRt f).reset = P.reset := rfl
@[simp] theorem Package.thermal_updRt (P : Package) (f : RootBlk → RootBlk) : (P.updRt f).thermal = P.thermal := rfl
@[simp] theorem Package.tk_updRt (P : Package) (f : RootBlk → RootBlk) : (P.updRt f).tk = P.tk := rfl
@[simp] theorem Package.tok_updRt (P : Package) (f : RootBlk → RootBlk) : (P.updRt f).tok = P.tok := rfl
@[simp] theorem Package.repair_updRt (P : Package) (f : RootBlk → RootBlk) : (P.updRt f).repair = P.repair := rfl
@[simp] theorem Package.comm_updRt (P : Package) (f : RootBlk → RootBlk) : (P.updRt f).comm = P.comm := rfl
@[simp] theorem Package.stag_updRt (P : Package) (f : RootBlk → RootBlk) : (P.updRt f).stag = P.stag := rfl
@[simp] theorem Package.fns_updRt (P : Package) (f : RootBlk → RootBlk) : (P.updRt f).fns = P.fns := rfl
@[simp] theorem Package.boles_updRt (P : Package) (f : RootBlk → RootBlk) : (P.updRt f).boles = P.boles := rfl
@[simp] theorem Package.west_updRt (P : Package) (f : RootBlk → RootBlk) : (P.updRt f).west = P.west := rfl
@[simp] theorem Package.east_updRt (P : Package) (f : RootBlk → RootBlk) : (P.updRt f).east = P.east := rfl
@[simp] theorem Package.rtrs_updRt (P : Package) (f : RootBlk → RootBlk) : (P.updRt f).rtrs = P.rtrs := rfl
@[simp] theorem Package.arbs_updRt (P : Package) (f : RootBlk → RootBlk) : (P.updRt f).arbs = P.arbs := rfl
@[simp] theorem Package.links_updRt (P : Package) (f : RootBlk → RootBlk) : (P.updRt f).links = P.links := rfl
@[simp] theorem Package.latches_updRt (P : Package) (f : RootBlk → RootBlk) : (P.updRt f).latches = P.latches := rfl
@[simp] theorem Package.parts_updRt (P : Package) (f : RootBlk → RootBlk) : (P.updRt f).parts = P.parts := rfl
@[simp] theorem Package.live_updRt (P : Package) (f : RootBlk → RootBlk) : (P.updRt f).live = P.live := rfl
@[simp] theorem Package.bole_updRt (P : Package) (f : RootBlk → RootBlk) (j : Nat) : (P.updRt f).bole j = P.bole j := rfl
@[simp] theorem Package.fn_updRt (P : Package) (f : RootBlk → RootBlk) (j : Nat) : (P.updRt f).fn j = P.fn j := rfl
@[simp] theorem Package.link_updRt (P : Package) (f : RootBlk → RootBlk) (j : Nat) : (P.updRt f).link j = P.link j := rfl
@[simp] theorem Package.rtr_updRt (P : Package) (f : RootBlk → RootBlk) (j : Nat) : (P.updRt f).rtr j = P.rtr j := rfl
@[simp] theorem Package.arb_updRt (P : Package) (f : RootBlk → RootBlk) (j : Nat) : (P.updRt f).arb j = P.arb j := rfl
@[simp] theorem Package.powered_updLink (P : Package) (k : Nat) (f : Link → Link) : (P.updLink k f).powered = P.powered := rfl
@[simp] theorem Package.ready_updLink (P : Package) (k : Nat) (f : Link → Link) : (P.updLink k f).ready = P.ready := rfl
@[simp] theorem Package.failed_updLink (P : Package) (k : Nat) (f : Link → Link) : (P.updLink k f).failed = P.failed := rfl
@[simp] theorem Package.reset_updLink (P : Package) (k : Nat) (f : Link → Link) : (P.updLink k f).reset = P.reset := rfl
@[simp] theorem Package.thermal_updLink (P : Package) (k : Nat) (f : Link → Link) : (P.updLink k f).thermal = P.thermal := rfl
@[simp] theorem Package.tk_updLink (P : Package) (k : Nat) (f : Link → Link) : (P.updLink k f).tk = P.tk := rfl
@[simp] theorem Package.tok_updLink (P : Package) (k : Nat) (f : Link → Link) : (P.updLink k f).tok = P.tok := rfl
@[simp] theorem Package.rt_updLink (P : Package) (k : Nat) (f : Link → Link) : (P.updLink k f).rt = P.rt := rfl
@[simp] theorem Package.repair_updLink (P : Package) (k : Nat) (f : Link → Link) : (P.updLink k f).repair = P.repair := rfl
@[simp] theorem Package.comm_updLink (P : Package) (k : Nat) (f : Link → Link) : (P.updLink k f).comm = P.comm := rfl
@[simp] theorem Package.stag_updLink (P : Package) (k : Nat) (f : Link → Link) : (P.updLink k f).stag = P.stag := rfl
@[simp] theorem Package.fns_updLink (P : Package) (k : Nat) (f : Link → Link) : (P.updLink k f).fns = P.fns := rfl
@[simp] theorem Package.boles_updLink (P : Package) (k : Nat) (f : Link → Link) : (P.updLink k f).boles = P.boles := rfl
@[simp] theorem Package.west_updLink (P : Package) (k : Nat) (f : Link → Link) : (P.updLink k f).west = P.west := rfl
@[simp] theorem Package.east_updLink (P : Package) (k : Nat) (f : Link → Link) : (P.updLink k f).east = P.east := rfl
@[simp] theorem Package.rtrs_updLink (P : Package) (k : Nat) (f : Link → Link) : (P.updLink k f).rtrs = P.rtrs := rfl
@[simp] theorem Package.arbs_updLink (P : Package) (k : Nat) (f : Link → Link) : (P.updLink k f).arbs = P.arbs := rfl
@[simp] theorem Package.latches_updLink (P : Package) (k : Nat) (f : Link → Link) : (P.updLink k f).latches = P.latches := rfl
@[simp] theorem Package.parts_updLink (P : Package) (k : Nat) (f : Link → Link) : (P.updLink k f).parts = P.parts := rfl
@[simp] theorem Package.live_updLink (P : Package) (k : Nat) (f : Link → Link) : (P.updLink k f).live = P.live := rfl
@[simp] theorem Package.bole_updLink (P : Package) (k : Nat) (f : Link → Link) (j : Nat) : (P.updLink k f).bole j = P.bole j := rfl
@[simp] theorem Package.fn_updLink (P : Package) (k : Nat) (f : Link → Link) (j : Nat) : (P.updLink k f).fn j = P.fn j := rfl
@[simp] theorem Package.rtr_updLink (P : Package) (k : Nat) (f : Link → Link) (j : Nat) : (P.updLink k f).rtr j = P.rtr j := rfl
@[simp] theorem Package.arb_updLink (P : Package) (k : Nat) (f : Link → Link) (j : Nat) : (P.updLink k f).arb j = P.arb j := rfl
@[simp] theorem Package.powered_updRtr (P : Package) (k : Nat) (f : Router → Router) : (P.updRtr k f).powered = P.powered := rfl
@[simp] theorem Package.ready_updRtr (P : Package) (k : Nat) (f : Router → Router) : (P.updRtr k f).ready = P.ready := rfl
@[simp] theorem Package.failed_updRtr (P : Package) (k : Nat) (f : Router → Router) : (P.updRtr k f).failed = P.failed := rfl
@[simp] theorem Package.reset_updRtr (P : Package) (k : Nat) (f : Router → Router) : (P.updRtr k f).reset = P.reset := rfl
@[simp] theorem Package.thermal_updRtr (P : Package) (k : Nat) (f : Router → Router) : (P.updRtr k f).thermal = P.thermal := rfl
@[simp] theorem Package.tk_updRtr (P : Package) (k : Nat) (f : Router → Router) : (P.updRtr k f).tk = P.tk := rfl
@[simp] theorem Package.tok_updRtr (P : Package) (k : Nat) (f : Router → Router) : (P.updRtr k f).tok = P.tok := rfl
@[simp] theorem Package.rt_updRtr (P : Package) (k : Nat) (f : Router → Router) : (P.updRtr k f).rt = P.rt := rfl
@[simp] theorem Package.repair_updRtr (P : Package) (k : Nat) (f : Router → Router) : (P.updRtr k f).repair = P.repair := rfl
@[simp] theorem Package.comm_updRtr (P : Package) (k : Nat) (f : Router → Router) : (P.updRtr k f).comm = P.comm := rfl
@[simp] theorem Package.stag_updRtr (P : Package) (k : Nat) (f : Router → Router) : (P.updRtr k f).stag = P.stag := rfl
@[simp] theorem Package.fns_updRtr (P : Package) (k : Nat) (f : Router → Router) : (P.updRtr k f).fns = P.fns := rfl
@[simp] theorem Package.boles_updRtr (P : Package) (k : Nat) (f : Router → Router) : (P.updRtr k f).boles = P.boles := rfl
@[simp] theorem Package.west_updRtr (P : Package) (k : Nat) (f : Router → Router) : (P.updRtr k f).west = P.west := rfl
@[simp] theorem Package.east_updRtr (P : Package) (k : Nat) (f : Router → Router) : (P.updRtr k f).east = P.east := rfl
@[simp] theorem Package.arbs_updRtr (P : Package) (k : Nat) (f : Router → Router) : (P.updRtr k f).arbs = P.arbs := rfl
@[simp] theorem Package.links_updRtr (P : Package) (k : Nat) (f : Router → Router) : (P.updRtr k f).links = P.links := rfl
@[simp] theorem Package.latches_updRtr (P : Package) (k : Nat) (f : Router → Router) : (P.updRtr k f).latches = P.latches := rfl
@[simp] theorem Package.parts_updRtr (P : Package) (k : Nat) (f : Router → Router) : (P.updRtr k f).parts = P.parts := rfl
@[simp] theorem Package.live_updRtr (P : Package) (k : Nat) (f : Router → Router) : (P.updRtr k f).live = P.live := rfl
@[simp] theorem Package.bole_updRtr (P : Package) (k : Nat) (f : Router → Router) (j : Nat) : (P.updRtr k f).bole j = P.bole j := rfl
@[simp] theorem Package.fn_updRtr (P : Package) (k : Nat) (f : Router → Router) (j : Nat) : (P.updRtr k f).fn j = P.fn j := rfl
@[simp] theorem Package.link_updRtr (P : Package) (k : Nat) (f : Router → Router) (j : Nat) : (P.updRtr k f).link j = P.link j := rfl
@[simp] theorem Package.arb_updRtr (P : Package) (k : Nat) (f : Router → Router) (j : Nat) : (P.updRtr k f).arb j = P.arb j := rfl
@[simp] theorem Package.powered_updArb (P : Package) (k : Nat) (f : Arb → Arb) : (P.updArb k f).powered = P.powered := rfl
@[simp] theorem Package.ready_updArb (P : Package) (k : Nat) (f : Arb → Arb) : (P.updArb k f).ready = P.ready := rfl
@[simp] theorem Package.failed_updArb (P : Package) (k : Nat) (f : Arb → Arb) : (P.updArb k f).failed = P.failed := rfl
@[simp] theorem Package.reset_updArb (P : Package) (k : Nat) (f : Arb → Arb) : (P.updArb k f).reset = P.reset := rfl
@[simp] theorem Package.thermal_updArb (P : Package) (k : Nat) (f : Arb → Arb) : (P.updArb k f).thermal = P.thermal := rfl
@[simp] theorem Package.tk_updArb (P : Package) (k : Nat) (f : Arb → Arb) : (P.updArb k f).tk = P.tk := rfl
@[simp] theorem Package.tok_updArb (P : Package) (k : Nat) (f : Arb → Arb) : (P.updArb k f).tok = P.tok := rfl
@[simp] theorem Package.rt_updArb (P : Package) (k : Nat) (f : Arb → Arb) : (P.updArb k f).rt = P.rt := rfl
@[simp] theorem Package.repair_updArb (P : Package) (k : Nat) (f : Arb → Arb) : (P.updArb k f).repair = P.repair := rfl
@[simp] theorem Package.comm_updArb (P : Package) (k : Nat) (f : Arb → Arb) : (P.updArb k f).comm = P.comm := rfl
@[simp] theorem Package.stag_updArb (P : Package) (k : Nat) (f : Arb → Arb) : (P.updArb k f).stag = P.stag := rfl
@[simp] theorem Package.fns_updArb (P : Package) (k : Nat) (f : Arb → Arb) : (P.updArb k f).fns = P.fns := rfl
@[simp] theorem Package.boles_updArb (P : Package) (k : Nat) (f : Arb → Arb) : (P.updArb k f).boles = P.boles := rfl
@[simp] theorem Package.west_updArb (P : Package) (k : Nat) (f : Arb → Arb) : (P.updArb k f).west = P.west := rfl
@[simp] theorem Package.east_updArb (P : Package) (k : Nat) (f : Arb → Arb) : (P.updArb k f).east = P.east := rfl
@[simp] theorem Package.rtrs_updArb (P : Package) (k : Nat) (f : Arb → Arb) : (P.updArb k f).rtrs = P.rtrs := rfl
@[simp] theorem Package.links_updArb (P : Package) (k : Nat) (f : Arb → Arb) : (P.updArb k f).links = P.links := rfl
@[simp] theorem Package.latches_updArb (P : Package) (k : Nat) (f : Arb → Arb) : (P.updArb k f).latches = P.latches := rfl
@[simp] theorem Package.parts_updArb (P : Package) (k : Nat) (f : Arb → Arb) : (P.updArb k f).parts = P.parts := rfl
@[simp] theorem Package.live_updArb (P : Package) (k : Nat) (f : Arb → Arb) : (P.updArb k f).live = P.live := rfl
@[simp] theorem Package.bole_updArb (P : Package) (k : Nat) (f : Arb → Arb) (j : Nat) : (P.updArb k f).bole j = P.bole j := rfl
@[simp] theorem Package.fn_updArb (P : Package) (k : Nat) (f : Arb → Arb) (j : Nat) : (P.updArb k f).fn j = P.fn j := rfl
@[simp] theorem Package.link_updArb (P : Package) (k : Nat) (f : Arb → Arb) (j : Nat) : (P.updArb k f).link j = P.link j := rfl
@[simp] theorem Package.rtr_updArb (P : Package) (k : Nat) (f : Arb → Arb) (j : Nat) : (P.updArb k f).rtr j = P.rtr j := rfl
@[simp] theorem Package.rt_updRt (P : Package) (f : RootBlk → RootBlk) : (P.updRt f).rt = f P.rt := rfl

end Sys2Proof.Machine
end

