-- ==== Sys2Proof/Laws/Places.lean ====
section
/-! SUPPORT. What the operations of one package leave: every other package of the Grove. One lemma per shared operation. -/

namespace Sys2Proof.Machine

variable {s : State} {p q : Nat}

theorem State.other_onLive {f} (h : q ≠ p) : (s.onLive p f).pkg q = s.pkg q := by
  unfold State.onLive; split <;> simp [h]
theorem State.other_onPowered {f} (h : q ≠ p) : (s.onPowered p f).pkg q = s.pkg q := by
  unfold State.onPowered; split <;> simp [h]
theorem State.other_onBole {k f} (h : q ≠ p) : (s.onBole p k f).pkg q = s.pkg q := by
  unfold State.onBole; split <;> simp [h]
theorem State.other_onProg {k f} (h : q ≠ p) : (s.onProg p k f).pkg q = s.pkg q := by
  unfold State.onProg; split <;> simp [h]
theorem State.other_onFn {k f} (h : q ≠ p) : (s.onFn p k f).pkg q = s.pkg q := by
  unfold State.onFn; exact State.other_onLive h
theorem State.other_onActive {k f} (h : q ≠ p) : (s.onActive p k f).pkg q = s.pkg q := by
  unfold State.onActive; exact State.other_onLive h
theorem State.pkg_sendLoss {a b c} : (s.sendLoss p a b c).pkg q = s.pkg q := by unfold State.sendLoss; split <;> simp
theorem State.other_descRow {a b c d g} (h : q ≠ p) : (s.descRow p a b c d g).pkg q = s.pkg q := by
  unfold State.descRow; exact State.other_onFn h

theorem State.other_resetBole {k} (h : q ≠ p) : (s.resetBole p k).pkg q = s.pkg q := by
  unfold State.resetBole; rw [State.pkg_sendLoss]; simp [h]
theorem State.pkg_foldl {α} (l : List α) (f : State → α → State) (hf : ∀ s a, (f s a).pkg q = s.pkg q) : ∀ s, (l.foldl f s).pkg q = s.pkg q := by
  induction l with
  | nil => intro s; rfl
  | cons a l ih => intro s; rw [List.foldl_cons, ih, hf]
theorem State.other_startAbort {k} (h : q ≠ p) : (s.startAbort p k).pkg q = s.pkg q := by
  unfold State.startAbort; rw [State.pkg_sendLoss]; simp [h]
theorem State.other_askAbort {k} (h : q ≠ p) : (s.askAbort p k).pkg q = s.pkg q := by
  unfold State.askAbort; split <;> simp [h, State.other_startAbort]
theorem State.other_abortGlade {k} (h : q ≠ p) : (s.abortGlade p k).pkg q = s.pkg q := by
  unfold State.abortGlade State.atFn; split <;> simp [h, State.other_askAbort]
theorem State.other_vfAborts {k} (h : q ≠ p) : (s.vfAborts p k).pkg q = s.pkg q := by
  unfold State.vfAborts; exact State.pkg_foldl _ _ (fun s a => State.other_abortGlade h) _
theorem State.other_escalate {k u} (h : q ≠ p) : (s.escalate p k u).pkg q = s.pkg q := by
  unfold State.escalate; simp only [State.pkg_updStand]; rw [State.pkg_updPkg_ne _ _ h]; exact State.pkg_foldl _ _ (fun s a => State.other_resetBole h) _
theorem State.other_functionReset {k} (h : q ≠ p) : (s.functionReset p k).pkg q = s.pkg q := by
  unfold State.functionReset; simp only []; split; rfl; split; simp [h]; split <;> simp [h, State.other_startAbort]
theorem State.pkg_lossAll : (s.lossAll p).pkg q = s.pkg q := by
  unfold State.lossAll; exact State.pkg_foldl _ _ (fun s a => State.pkg_sendLoss) _
theorem State.other_pkgReset {g} (h : q ≠ p) : (s.pkgReset p g).pkg q = s.pkg q := by
  unfold State.pkgReset; split <;> simp [h, State.pkg_lossAll]
theorem State.pkg_sledAdmitted : (s.sledAdmitted p).pkg q = s.pkg q := by
  unfold State.sledAdmitted; split <;> simp
theorem State.other_linkIdent {l i} (h : q ≠ p) : (s.linkIdent p l i).pkg q = s.pkg q := by
  unfold State.linkIdent; simp only []; repeat' split
  all_goals simp [h, State.pkg_sledAdmitted]
theorem State.other_setPeriodNext {n} (h : q ≠ p) : (s.setPeriodNext p n).pkg q = s.pkg q := by
  unfold State.setPeriodNext; simp only []; repeat' split
  all_goals simp [h]
theorem State.other_setPeriod {n} (h : q ≠ p) : (s.setPeriod p n).pkg q = s.pkg q := by
  unfold State.setPeriod; repeat' split
  all_goals simp [h]
theorem State.pkg_askOos : (s.askOos p).pkg q = s.pkg q := by
  unfold State.askOos; simp only []; split <;> simp
theorem State.other_fieldDefect {i v} (h : q ≠ p) : (s.fieldDefect p i v).pkg q = s.pkg q := by
  unfold State.fieldDefect; split <;> simp [h, State.pkg_askOos]
theorem State.other_abortRings {f} (h : q ≠ p) : (s.abortRings p f).pkg q = s.pkg q := by
  unfold State.abortRings; rw [State.other_onFn h]; simp
theorem State.other_boleRunRow {f r n a} (h : q ≠ p) : (s.boleRunRow p f r n a).pkg q = s.pkg q := by
  unfold State.boleRunRow; split; split; exact State.other_descRow h; rfl; rfl
theorem State.other_fnReg {f o x} (h : q ≠ p) : (s.fnReg p f o x).pkg q = s.pkg q := by
  unfold State.fnReg State.abortReg; simp only []; split; split <;> split <;> simp [h, State.other_abortGlade, State.other_abortRings]; simp [h]
theorem State.other_pkgReg {f o x} (h : q ≠ p) : (s.pkgReg p f o x).pkg q = s.pkg q := by
  unfold State.pkgReg
  split; exact State.other_fieldDefect h
  split; exact State.other_vfAborts h
  split; exact State.other_setPeriodNext h
  split; exact State.other_setPeriod h
  simp [h]
theorem State.other_busMaster {f o} (h : q ≠ p) : (s.busMaster p f o).pkg q = s.pkg q := by
  unfold State.busMaster; repeat' split
  all_goals simp [h]
theorem State.other_powerState {f o} (h : q ≠ p) : (s.powerState p f o).pkg q = s.pkg q := by
  unfold State.powerState; simp only []; repeat' split
  all_goals simp [h, State.other_functionReset]
theorem State.other_vfEnable {o} (h : q ≠ p) : (s.vfEnable p o).pkg q = s.pkg q := by
  unfold State.vfEnable; simp only []; split
  · rw [State.pkg_foldl _ _ (fun s a => State.other_functionReset h)]; simp [h]
  · simp [h]
theorem State.other_configReg {f o x} (h : q ≠ p) : (s.configReg p f o x).pkg q = s.pkg q := by
  unfold State.configReg; simp only []
  by_cases h1 : o = 4
  · simp [h1, h, State.other_busMaster]
  by_cases h2 : o = 0x48
  · simp only [h2]; norm_num; split <;> simp [h, State.other_functionReset]
  simp only [h1, h2, if_false]
  repeat' split
  all_goals simp [h, State.other_powerState, State.other_vfEnable]
theorem State.other_regAcc {f x} (h : q ≠ p) : (s.regAcc p f x).pkg q = s.pkg q := by
  unfold State.regAcc; simp only []; repeat' split
  all_goals simp [h, State.other_configReg, State.other_pkgReg, State.other_fnReg]
theorem State.other_regWrite {f o d} (h : q ≠ p) : (s.regWrite p f o d).pkg q = s.pkg q := by
  unfold State.regWrite; split; exact State.pkg_foldl _ _ (fun s a => State.other_regAcc h) _; rfl
theorem State.other_niWrite {f d} (h : q ≠ p) : (s.niWrite p f d).pkg q = s.pkg q := by
  unfold State.niWrite; exact State.pkg_foldl _ _ (fun s a => State.other_regWrite h) _
theorem State.other_progStore {k a b c} (h : q ≠ p) : (s.progStore p k a b c).pkg q = s.pkg q := by
  unfold State.progStore; simp only []; repeat' split
  all_goals simp [h, State.other_regWrite]
theorem outcome_next_inj {x y : State} (h : (Host.Outcome.next x : Host.Outcome State Fault Refusal) = .next y) : y = x := by
  injection h with h; exact h.symm

end Sys2Proof.Machine
end

