-- ==== Sys2Proof/WellFormed.lean ====
section
/-! DEFINITION. Which operands of a command fit the fields and places the spec gives them: widths of header and eft fields,
runs of bytes that a load, a store or a register access may carry, and the values a measurement can have. Ordinary values
that a rule gives an effect of its own (a refused set, a bad descriptor, a reserved field) are well formed. -/

namespace Sys2Proof

/-- Fields of the head header within their widths (Table 7.1). -/
def Head.wf (h : Head) : Bool :=
  decide (h.vn < 4 ∧ h.vc < 2 ∧ h.age < 4 ∧ h.dstX < 512 ∧ h.dstY < 256 ∧ h.srcX < 512 ∧ h.srcY < 256 ∧ h.tag < 32768 ∧
    h.alive < 65536 ∧ h.loc < 2 ^ 32 ∧ h.ecrc < 65536)

/-- Fields of an eft within their widths (Table 13.1). -/
def Eft.wf (f : Eft) : Bool :=
  decide (f.kind < 16 ∧ f.inbox < 16 ∧ f.dstX < 512 ∧ f.dstY < 256 ∧ f.srcX < 512 ∧ f.srcY < 256 ∧ f.group < 64 ∧ f.word < 8 ∧
    f.rop < 8 ∧ f.fmt < 4 ∧ f.epoch < 64)

/-- A set's fields within their widths (Table 9.2). -/
def McSet.wf (m : McSet) : Bool :=
  decide (m.x0 < 512 ∧ m.y0 < 256 ∧ m.lsx < 16 ∧ m.lsy < 16 ∧ m.nx < 1024 ∧ m.ny < 512)

/-- An opcode that a program may push, and addresses of 32 bits (R187, Table 7.3). -/
def Push.wf (q : Push) : Bool :=
  decide (q.op ∈ [PktOp.write, .writeShort, .read, .atomic, .signal, .reduce]) &&
    decide (q.dstX < 512 ∧ q.dstY < 256 ∧ q.loc < 2 ^ 32 ∧ q.src < 2 ^ 32 ∧ q.len ≤ 2048 ∧ q.body.length ≤ 2048)

/-- A transfer of at least one granule, whole granules at both ends (R496). -/
def Dma.wf (d : Dma) : Bool :=
  decide (d.dstX < 512 ∧ d.dstY < 256 ∧ d.loc < 2 ^ 32 ∧ d.leaf < 2 ^ 32 ∧ d.loc % 64 = 0 ∧ d.leaf % 64 = 0 ∧ 1 ≤ d.granules)

def McOp.wf (m : McOp) : Bool :=
  m.set.wf && decide (m.loc < 2 ^ 32 ∧ m.flag < 2 ^ 32 ∧ m.src < 2 ^ 32 ∧ m.record < 2 ^ 32)

/-- Operands of Table 5.1 within 32 bits. -/
def MatStep.wf (m : MatStep) : Bool :=
  decide (m.mdAddr < 2 ^ 32 ∧ m.stride < 2 ^ 32 ∧ m.val < 2 ^ 32 ∧ m.vasize < 2 ^ 32 ∧ m.k < 2 ^ 32 ∧ m.panel < 2 ^ 32 ∧
    m.cin < 2 ^ 32 ∧ m.dest < 2 ^ 32)

def CStore.wf (c : CStore) : Bool :=
  decide (c.tile < 2 ^ 32 ∧ c.mdAddr < 2 ^ 32 ∧ c.stride < 2 ^ 32 ∧ c.val < 2 ^ 32 ∧ c.voff < 2 ^ 32 ∧ 1 ≤ c.rows ∧ 1 ≤ c.cols)

/-- A scheduled flit's fields within their widths (Table 8.5), 64 bytes of data. -/
def SchedFlit.wf (f : SchedFlit) : Bool :=
  decide (f.stream < 1024 ∧ f.idx < 4096 ∧ f.win2 < 4 ∧ f.tag < 32768 ∧ f.data.length = 64)

/-- A frame's header fields within their widths, and at most a body (Tables 14.2 and 14.3). -/
def LinkFrame.wf (f : LinkFrame) : Bool :=
  decide (f.seq < 4096 ∧ f.ack < 4096 ∧ f.onoff < 256 ∧ f.ctl < 8 ∧ f.cdata < 4096 ∧ f.rsv < 65536 ∧ f.body.length ≤ 1016 ∧
    f.fcrc < 2 ^ 32)

def LaneFrame.wf (f : LaneFrame) : Bool :=
  f.eft.wf && decide (f.kind < 4 ∧ f.seq < 32 ∧ f.ack < 32 ∧ f.onoff < 4 ∧ f.eseq < 32 ∧ f.lcrc < 65536)

/-- What a partner reports in IDENT (R368). -/
def Ident.wf (d : Ident) : Bool :=
  decide (d.stand < 32 ∧ d.px < 8 ∧ d.py < 8 ∧ d.link < 16 ∧ d.eseq < 4096)

/-- A rectangle and tag in their fields, each package of the Grove (Table 17.2). -/
def GladeSpec.wf (g : GladeSpec) : Bool :=
  decide (g.tag < 32768 ∧ g.x0 < 512 ∧ g.y0 < 256 ∧ g.w ≤ 512 ∧ g.h ≤ 256) && g.on.all fun x => decide (x.pkg < 2048)

/-- An access of at least one byte that stays in 64 bits of a register or one 64-byte block (R10, R459). -/
def accessWf (offset n : Nat) : Bool := decide (1 ≤ n ∧ n ≤ 64 ∧ offset < 2 ^ 32)

/-- Which commands are well formed. -/
def Instr.wf : Instr → Bool
  | .tickSyncExchange _ _ rtt => decide (rtt < 2 ^ 32)
  | .streamRecord _ _ _ window => decide (window < 2 ^ 48)
  | .awardArrival _ window tokens => decide (window < 2 ^ 48 ∧ tokens < 2 ^ 20)
  | .boleLoad _ _ loc size _ => decide (loc < 2 ^ 32 ∧ 1 ≤ size ∧ size ≤ 64)
  | .boleStore _ _ loc data _ => decide (loc < 2 ^ 32 ∧ 1 ≤ data.length ∧ data.length ≤ 64)
  | .memoryScrubWriteback _ m word => (match m with
      | .leaf _ => decide (word < 0x600000 / 8)
      | .heart _ => decide (word < 0x4000000 / 8))
  | .niDmaWrite _ _ d | .niDmaRead _ _ d => d.wf
  | .overflowReadCompletion _ tag _ data | .hostReadCompletion _ tag _ data => decide (tag < 1024 ∧ data.length ≤ 4096)
  | .hostReadTimeout _ tag => decide (tag < 1024)
  | .arbRequest _ _ reqs => reqs.all fun r => decide (1 ≤ r.len)
  | .matrixStep _ _ m _ => m.wf
  | .storeMask _ _ c | .storeMaskTransposed _ _ c | .storeValue _ _ c => c.wf
  | .injectionPush _ _ q => q.wf
  | .mcastIssue _ _ m => m.wf
  | .resendDue _ _ x y | .requestUnanswered _ _ x y | .aliveEntryFree _ _ x y => decide (x < 512 ∧ y < 256)
  | .cvWrite _ _ offset width _ => decide (offset < 0x80 ∧ width ∈ [8, 16, 32, 64])
  | .twSendWrite _ _ e => e.wf
  | .loss _ tag lossTick _ => decide (tag < 32768 ∧ lossTick < 2 ^ 48)
  | .clLaunchWrite _ _ bs => decide (bs.length = 64)
  | .linkFrameReceive _ _ fr _ _ _ => fr.wf
  | .replayRequest _ _ eseq => decide (eseq < 4096)
  | .linkIdent _ _ id => id.wf
  | .linkMeasure _ _ rtt _ => decide (rtt < 2048)
  | .twigLaneFrame _ _ fr => fr.wf
  | .descriptorFetch _ _ _ ds => decide (ds.length ≤ 8) && ds.all fun d => decide (d.length = 64)
  | .gladesCreate _ gs => gs.all GladeSpec.wf
  | .gladesRemove _ tags => tags.all fun t => decide (1 ≤ t ∧ t < 32768)
  | .joinGrove w h => decide (w ∈ [1, 2, 4, 8] ∧ h ∈ [1, 2, 4])
  | .redfishPatch _ prop v => (match prop with
      | .hostAllowance => decide (v < 65536)
      | .bankCapSet => decide (v < 2 ^ 20))
  | .halfReadLatch _ _ offset size => accessWf offset size
  | .registerWrite _ _ offset data => accessWf offset data.length
  | .pcieLinkUp _ width speed => decide (width < 64 ∧ speed < 16)
  | .arbWithdraw _ i req _ | .arbMask _ i req | .arbMaskClear _ i req => decide (req < if i.val < 32 then 34 else if i.val = 32 then 82 else 8)
  | .tick _ _ | .clockChangeDone _ _ | .tickHoldoverExpire _ | .groveHoldoverStart _ | .groveUnlock _ | .tkPhaseWrite _ _
  | .tkPeriodNextWrite _ _ | .tkSwitchTickWrite _ _ | .periodSwitch _ | .tokenReport _ | .tokenReportMissing _
  | .baseChange _ | .inletSample _ _ | .thermalHold _ | .thermalHoldRelease _ | .grandmasterSync _ _
  | .overflowReadIssue _ _ | .rtOvfBudgetWrite _ _ _ _ | .rtZeroStart _ _ | .rtZeroDone _ | .arbGrant _ _
  | .arbReserveGrant _ _ | .arCtrlWrite _ _ _ | .arClassWrite _ _ _ _ | .matrixStepIssue _ _ | .stealEpoch _ _
  | .matrixStepEnd _ _ | .routerForward _ _ _ _ _ _ _ | .onoffSignal _ _ _ _ _ | .packetInject _ _ _ | .write _ _ _
  | .writeShort _ _ | .read _ _ | .atomic _ _ | .signal _ _ | .readData _ _ | .ack _ _ | .nack _ _ | .atomicResult _ _
  | .eftPacket _ _ | .flitExpiry _ | .reassemblyRelease _ _ | .streamReadahead _ _ _ | .schedFlitEject _ _ _ _ _
  | .injectStreamRecord _ _ _ | .niSreadyWrite _ _ _ | .schedArm _ _ | .schedBankCheck _ _ | .schedStop _ _
  | .schedModeWrite _ _ _ | .schedBankSwitch _ _ | .niSchedBankWrite _ _ _ | .niSchedHdrWrite _ _ _ _
  | .mcastReplicate _ _ _ _ _ _ | .mcastDeliver _ _ | .mackArrival _ _ | .mcastAttemptRetry _ _ _ | .branchStall _ _ _
  | .reduceCombine _ _ _ _ | .combineFlush _ _ _ | .combineExpire _ _ _ | .reduceRootLand _ _ | .dedupEvict _ _
  | .quarantineEnd _ _ | .cvStart _ _ | .cvDin8 _ _ | .cvDin16 _ _ | .cvDin32 _ _ | .cvClose _ _ | .cvParamWrite _ _
  | .cvStateWrite _ _ | .cvAliveWrite _ _ | .cvWatchExpire _ _ | .shaperFieldWrite _ _ _ _ _ | .shCtrlEnable _ _ _
  | .watermarkWrite _ _ _ | .rcRead _ _ | .lanePush _ _ | .twigForward _ _ _ _ _ | .flagEft _ _ | .inboxPop _ _ _
  | .arrive _ _ | .release _ _ | .redUp _ _ | .redDown _ _ | .scanUp _ _ | .scanDown _ _ | .launchDequeue _ _ _
  | .chunkStart _ _ _ | .collShed _ _ _ | .triggerFire _ _ | .triggerActionRun _ _ | .clCtrAdd _ _ _ _ | .clCtrReset _ _ _
  | .clTrigWrite _ _ _ _ | .clGroupWrite _ _ _ _ | .replayLimit _ _ | .hold _ _ _ _ _ | .holdExpire _ _ _
  | .holdOverrun _ _ _ | .fastRetrain _ _ | .fullTrain _ _ | .linkDown _ _ | .linkDetect _ _ | .linkEqualise _ _
  | .linkLock _ _ | .linkActive _ _ | .lkRetrain _ _ | .lkFulltrain _ _ | .lkDisable _ _ _ | .lkHoldTx _ _ _ _
  | .fnNudge _ _ _ | .doorbellRecord _ _ _ _ _ | .nop _ _ _ _ | .copyIn _ _ _ _ | .copyOut _ _ _ _ | .fill _ _ _ _
  | .schedLoad _ _ _ _ | .niWrite _ _ _ _ | .collGroup _ _ _ _ | .collLaunch _ _ _ _ | .boleRunStart _ _ _ _
  | .boleRunStop _ _ _ _ | .wait _ _ _ _ | .abort _ _ _ _ | .descriptorComplete _ _ _ | .fnAbortGlade _ _ | .rtVfAbort _ _
  | .fnAbortRings _ _ | .ringReset _ _ _ | .ringResetReadDone _ _ _ _ _ | .ringResetReadTimeout _ _ _ _
  | .abortCollectivesEnd _ _ | .abortEscalate _ _ _ | .ringEnable _ _ _ _ | .fnSetupLock _ _ | .rtSetupLock _
  | .bmeClear _ _ | .bmeSet _ _ | .d3hotEntry _ _ | .fnIntAck _ _ | .niHostSignal _ _ | .packageColdReset _
  | .packageWarmReset _ | .conventionalReset _ | .functionLevelReset _ _ | .flrEscalate _ _ _ | .boleReset _ _
  | .sledPowerOn _ _ | .packageReady _ _ | .packageFailed _ | .firstTokenTick _ | .gladeCommit _ | .glDiscard _
  | .rootstockRestart _ | .serviceSled _ _ | .returnSled _ _ | .rtFieldDefectWrite _ _ _ | .rtPositionWrite _ _
  | .linkFrameSend _ _ | .twigLaneFrameSend _ _ | .scheduledFlitSend _ _ _ _ _ => true

end Sys2Proof
end

