-- ==== Sys2Proof/Tests/Slice0.lean ====
section
/-! SUPPORT. Tests by hand from the spec, each about one step on a small state; the ill-formed terms that WellFormed refuses;
and for every statement with hypotheses a concrete state and operands that meet them (witness_<statement>). -/

namespace Sys2Proof.Tests
open Sys2Proof Sys2Proof.Machine

/-! ### Small states -/

/-- A package that runs, in service. -/
def upP : Package := { powered := true, ready := true }
/-- A Grove with one package that has power. -/
def one (P : Package) : State := { pkgs := [(0, P)] }
/-- A bole whose program runs. -/
def runB : Bole := { running := true }
/-- One package with bole 0 as given. -/
def oneBole (B : Bole) : State := one { upP with boles := [(0, B)] }
/-- One package with function f as given. -/
def oneFn (f : Nat) (F : Func) : State := one { upP with fns := [(f, F)] }

/-- Memory of a state whose listed memories are canonical is canonical. -/
theorem memWf_one (P : Package) (h : P.memWf) : (one P).memWf := by
  intro p
  by_cases hp : p = 0
  · subst hp; exact h
  · have : (one P).pkg p = {} := by
      simp only [State.pkg, one, Tab.get]
      simp [hp]
    rw [this]; exact ⟨fun _ => rfl, rfl, rfl⟩
theorem memWf_upP : (one upP).memWf := memWf_one _ ⟨fun _ => rfl, rfl, rfl⟩
/-- A package with one bole, no heartwood byte listed. -/
theorem memWf_oneBole (B : Bole) (h : B.leaf.mem.wf = true) : (oneBole B).memWf := by
  refine memWf_one _ ⟨fun k => ?_, rfl, rfl⟩
  by_cases hk : k = 0
  · subst hk; exact h
  · have : Package.bole { upP with boles := [(0, B)] } k = {} := by
      simp only [Package.bole, Tab.get]
      simp [hk]
    rw [this]; rfl

/-! ### The machine as a whole -/

theorem witness_StepTakesTheFrontCommand :
    ({ pending := [.tokenReport 0, .packageFailed 3] } : State).pending = .tokenReport 0 :: [.packageFailed 3] ∧
    State.reset.pending = [] := ⟨rfl, rfl⟩
theorem witness_EveryCommandAnswersAndKeepsTheQueue :
    ∃ t, step { pending := [.tokenReport 0, .packageFailed 3] } = .next t ∧ t.pending = [.packageFailed 3] := ⟨_, rfl, rfl⟩
theorem witness_EveryStepKeepsMemoryCanonical :
    (one upP).memWf ∧ ∃ t, step (one upP) = .next t := ⟨memWf_upP, _, rfl⟩
theorem witness_CommandsReachNoFurther :
    (∃ t, exec (.tokenReport 0) (one upP) = .next t) ∧ (Instr.tokenReport 0).home = some 0 ∧
    (Instr.tokenReport 0).storesNothing = true ∧ (1 : Nat) ≠ (0 : PkgId) := ⟨⟨_, rfl⟩, rfl, rfl, by decide⟩

/-! ### Chapter 02 -/

theorem witness_TickClosesTheWindow :
    ((one upP).pkg 0).live = true ∧ ((one upP).pkg 0).ready = true ∧
    ((one upP).stand ((one upP).leadOf (0 / 64))).replant = none ∧
    ((one upP).stand ((one upP).leadOf (0 / 64))).waiting = [] ∧
    (let k := ((one upP).pkg 0).tk
     k.rate = 0 ∧ k.timeFrac = 0 ∧ k.timeBase = k.tickTime ∧ k.timeAt = k.winStart ∧ k.winStart % 15 = 0) := by decide
theorem witness_TokensChooseTheLargestStep :
    let t : TokenBlk := { bringup := false, base := 16 * 1000000 }
    (t.bringup = false ∧ t.floorWin = false ∧ (t.select 20).step ≠ 0) ∧
    ({ bringup := true } : TokenBlk).bringup = true ∧ ({ floorWin := true } : TokenBlk).floorWin = true := by decide
theorem witness_TokenBooksBalance :
    let t : TokenBlk := { bringup := false, base := 100, bank := 5 }
    t.bringup = false ∧ 105 ≤ t.available ∧ t.available < 106 := by decide

/-- A package that runs in window 7, granted tokens from window 3 on, with a clock change, a base change and a report
outstanding, and an award for window 8 on its way. -/
def powP : Package := { upP with
  tok := { bringup := false, ckwNext := some 3, ckeNext := some 4, nextTick := 7, report := some ⟨6, 0, 0, 0, 0, 0, 0, 0⟩ }
  tk := { tickNum := 7 } }
def awd (w : Nat) : Award := { pkg := 0, window := w, tokens := 5 }
def powS : State := { one powP with stands := [(0, { granted := [(0, 3)], issued := [awd 7, awd 8] })], now := 6000 }
theorem witness_AwardsAndPowerMessages_1 :
    (powS.pkg 0).live = true ∧ (powS.pkg 0).tok.ckwNext = some 3 ∧ (powS.pkg 0).tok.ckeNext = some 4 ∧
    (∀ w ∈ [7, 8], (powS.stand 0).issued.find? (Award.due ((0 : PkgId) % 64) w (awd w).tokens) = some (awd w)) ∧
    (powS.stand 0).issued.find? (Award.due ((0 : PkgId) % 64) 9 3) = none ∧
    (powS.pkg 0).tk.tickNum < 8 ∧ 7 ≤ (powS.pkg 0).tk.tickNum ∧ (powS.pkg 0).tok.nextTick ≠ 0 ∧
    (powS.pkg 0).tk.tickNum = (powS.pkg 0).tok.nextTick ∧ ((one upP).pkg 0).tok.nextTick = 0 ∧
    (powS.pkg 0).tok.report = some ⟨6, 0, 0, 0, 0, 0, 0, 0⟩ ∧ ((one upP).pkg 0).tok.report = none := by decide
theorem witness_AwardsAndPowerMessages_2 :
    let r := powS.stand (0 / 64)
    powS.standTick (0 / 64) ≠ 0 ∧ powS.standTickAt (0 / 64) + 6000 ≤ powS.now ∧ r.granted.get 0 (0 % 64) ≠ 0 ∧
    r.granted.get 0 (0 % 64) ≤ powS.standTick (0 / 64) - 1 ∧ r.closed ≠ powS.standTick (0 / 64) ∧
    r.reports.any (fun q => q.pkg == 0 % 64 && q.window == powS.standTick (0 / 64) - 1) = false ∧
    ({ powS with now := 5999 } : State).now < powS.standTickAt (0 / 64) + 6000 ∧
    ((one powP).stand 0).granted.get 0 0 = 0 := by decide
theorem witness_AwardsAndPowerMessages_3 :
    let s : State := { stands := [(0, { above37 := 60 }), (1, { thermalHold := true, inlet := 35 })] }
    60 ≤ (s.stand 0).above37 ∧ (s.stand 0).thermalHold = false ∧ (s.stand 1).thermalHold = true ∧ (s.stand 1).inlet ≤ 35 ∧
    (35000 : Int) < 35001 := by decide
theorem witness_TickBlockAndSynchronisation_1 :
    ((one upP).pkg 0).live = true ∧ ((one upP).pkg 0).tk.everLocked = false ∧
    ((one { upP with tk := { everLocked := true } }).pkg 0).tk.everLocked = true ∧
    let s := one { upP with tk := { tickNum := 4, switchTick := 4, periodNext := 8, eraTime := 320001 } }
    (s.pkg 0).live = true ∧ (s.pkg 0).tk.switchTick ≠ 0 ∧ (s.pkg 0).tk.switchTick ≤ (s.pkg 0).tk.tickNum ∧
    (320001 : BitVec 64).toNat ≥ (s.pkg 0).tk.eraTime ∧ (320000 : BitVec 64).toNat < (s.pkg 0).tk.eraTime ∧
    (s.pkg 0).tok.bringup = true ∧ (powS.pkg 0).tok.bringup = false ∧
    (20 : BitVec 32).toNat % 128 = 20 ∧ s.periodShort (0 / 64) 20 = 0 ∧
    ({ s with stands := [(0, { hostAllowance := 60000 })] } : State).periodShort (0 / 64) 20 ≠ 0 := by decide +kernel
theorem witness_TickBlockAndSynchronisation_2 :
    let a := (one { upP with tk := { inLock := 15, noExch := 64 } }).pkg 1
    let b := (one { upP with tk := { inLock := 15, noExch := 64 } }).pkg 0
    let c := (one { upP with tk := { locked := true, outLock := 3 } }).pkg 0
    (b.live = true ∧ (80001 : Int).natAbs > 4000 * b.tk.period) ∧
    ((80000 : Int).natAbs ≤ 4000 * b.tk.period ∧ (16 : Int).natAbs ≤ 4000 * b.tk.period ∧ b.tk.lost = false ∧
      b.tk.locked = false ∧ 15 ≤ b.tk.inLock ∧ (16 : Int).natAbs ≤ 16) ∧
    (c.tk.locked = true ∧ ((one upP).isBorder 0 && c.tk.groveHoldover) = false ∧ 3 ≤ c.tk.outLock ∧ 32 < (33 : Int).natAbs ∧ c.tk.lost = false) ∧ a.live = false := by decide
theorem witness_TickBlockAndSynchronisation_3 :
    let s : State := { pkgs := [(9, { upP with tk := { noExch := 64 } })] }
    (s.pkg 9).live = true ∧ 64 ≤ (s.pkg 9).tk.noExch ∧ s.isBorder 9 = false := by decide
/-- Two Stands of a Grove; the border package of the second has lost its source. -/
def groveS (B : Package) (lostAt : Option Nat) : State :=
  { pkgs := [(64, B)], stands := [(0, { w := 2 }), (1, { w := 2, lostAt := lostAt })], now := 1920000 }
theorem witness_TickBlockAndSynchronisation_4 :
    let s := groveS { upP with tk := { holdover := true, noExch := 64 } } none
    let d := groveS {} (some 0)
    s.borderLost 1 = true ∧ (s.pkg (64 * (1 : StandIx))).live = true ∧ 64 ≤ (s.pkg (64 * (1 : StandIx))).tk.noExch ∧
    s.isBorder 64 = true ∧ 1 ∈ s.downstream 1 ∧
    (d.borderLost 1 = true ∧ (d.stand 1).lostAt = some 0 ∧ 0 + 64 * (1500 * (d.stand 1).period) ≤ d.now ∧
      (d.pkg (64 * (1 : StandIx))).live = false) ∧
    (one upP).borderLost 1 = false ∧ (groveS {} (some 1)).borderSilent 1 = false ∧ (State.reset.stand 0).lead = true := by
  decide +kernel
theorem witness_TickBlockAndSynchronisation_5 : (one upP).syncStamps 0 = none := rfl

/-! ### Chapters 01 and 03 -/

theorem witness_LogicalBolesAndRoutes_1 :
    upP.skipped (63 % 8) ≤ 8 ∧ Package.skipped { upP with repair := { spare := [(7, 0)] } } (63 % 8) ≤ 8 ∧
    (7 : Nat) < 8 ∧ 0 < 8 := by decide
def hd : Head :=
  { ftype := .single, vn := 0, vc := 0, ord := false, poison := false, dx := true, dy := true, op := .read
    age := 0, dstX := 3, dstY := 5, srcX := 0, srcY := 0, tag := 1, alive := 0, loc := 0, ecrc := 0 }
theorem witness_LogicalBolesAndRoutes_2 :
    let e := (one upP).env 0
    upP.boleAt 0 = some 0 ∧ hd.dstX ≠ upP.boleX 0 ∧ hd.dx = true ∧ upP.boleX 0 = 0 ∧
    (upP.boleAt (upP.rtrOf 3) = some 3 ∧ hd.dstX = upP.boleX 3 ∧ hd.dstY ≠ upP.boleY 3) ∧
    (upP.boleAt (upP.rtrOf 43) = some 43 ∧ hd.dstX = upP.boleX 43 ∧ hd.dstY = upP.boleY 43) ∧
    (upP.boleAt (upP.rtrOf 11) = some 11 ∧ hd.dstX = upP.boleX 11 ∧ hd.dstY ≠ upP.boleY 11 ∧ upP.boleY 11 ≠ 0 ∧
      upP.boleY 11 ≠ 64 * e.h - 1) ∧
    let Q : Package := { upP with rt := { px := 7 } }
    Q.boleAt (Q.rtrOf 7) = some 7 ∧ Q.boleX 7 = 64 * e.w - 1 ∧ ({ hd with dx := false } : Head).dstX ≠ Q.boleX 7 := by decide
theorem witness_LeafBankHash_HeartwoodSliceHash : 0x5FFFFF < 0x600000 ∧ 0x3FFFFFF < 0x4000000 ∧ (0x43FFFFFF + 1 ≤ 0x44000000) ∧
    (0x48000000 ≤ 0x48000000 ∧ 0x48000000 + 1 ≤ 0x4C000000) := by decide

/-- A package that serves VF 1's glade of tag 5 on all its boles: the first MiB of the west half is its own. -/
def gladeP : Package := { upP with
  comm := { ni := [(0, ⟨0, 0, 8, 8, 5⟩), (1, ⟨0, 0, 8, 8, 6⟩)], vfGlade := [(1, 5), (2, 6)], west := [(0, ⟨0, 1⟩), (1, ⟨1, 1⟩)] }
  boles := [(0, runB), (1, runB)] }
theorem witness_ProgramLoadsAndStores_1 :
    let s := one gladeP
    (s.pkg 0).live = true ∧ (s.pkg 0).up 0 = true ∧ ((s.pkg 0).bole 0).running = true ∧
    ((s.pkg 0).bole 0).leaf.mem.poison = [] ∧ ((s.pkg 0).bole 0).leaf.mem.ecc = [] ∧ 0x5FFFC0 + 64 ≤ 0x600000 ∧
    (s.pkg 0).heartOk ((s.pkg 0).tagOf 0) (halfOf 0) 0xFFFF8 8 = true ∧ ((s.pkg 0).heart (halfOf 0)).poison = [] ∧
    ((s.pkg 0).heart (halfOf 0)).ecc = [] ∧ ((s.pkg 0).bole 0).cause.leaf &&& 1 = 0 ∧
    (∀ u ∈ ({ upsets := [(8, false)] } : MemCond).upsets, u.2 = false) ∧ 0x600000 ≤ 0xFFFFFF ∧
    0xFFFFFF + 1 ≤ 0x1000000 ∧ 0x80000000 ≤ 0xFFFFFFFF ∧ 0xFFFFFFFF + 1 ≤ 0x100000000 := by decide
theorem witness_ProgramLoadsAndStores_2 :
    let s := oneBole { runB with leaf := { mem := { poison := [1] } } }
    (s.pkg 0).live = true ∧ (s.pkg 0).up 0 = true ∧ ((s.pkg 0).bole 0).running = true ∧
    ((s.pkg 0).bole 0).leaf.mem.poisoned 64 64 8 = true ∧ ((s.pkg 0).bole 0).cause.leaf &&& 1 = 0 ∧
    (∃ u ∈ ({ upsets := [(15, true)] } : MemCond).upsets, u.2 = true ∧ 0 < 8 ∧ 64 / 64 ≤ u.1 / 8 ∧ u.1 / 8 ≤ (64 + 8 - 1) / 64) := by
  decide
theorem gladeP_memWf : (one gladeP).memWf := by
  refine memWf_one _ ⟨fun k => ?_, rfl, rfl⟩
  match k with
  | 0 => rfl
  | 1 => rfl
  | k + 2 => rfl
theorem witness_HeartwoodAllocationsAreApart :
    gladeP.heartOk 5 .west 0 8 = true ∧ gladeP.fnOfTag 6 ≠ 0 ∧
    mib * ((gladeP.hwa .west (gladeP.fnOfTag 5 - 1)).base + (gladeP.hwa .west (gladeP.fnOfTag 5 - 1)).size) ≤
      mib * (gladeP.hwa .west (gladeP.fnOfTag 6 - 1)).base := by decide

def dma : Dma := { dstX := 1, dstY := 0, loc := 0, leaf := 0x5FFFC0, granules := 1, ord := false }
theorem witness_NiDma_1 :
    let s := one gladeP
    (s.pkg 0).live = true ∧ (s.pkg 0).up 0 = true ∧ ((s.pkg 0).bole 0).running = true ∧
    ((s.pkg 0).glade 0).holds dma.dstX dma.dstY = true ∧ dma.leaf + 64 * dma.granules ≤ 0x600000 ∧ dma.leaf % 64 = 0 ∧
    0 < dma.granules ∧ dma.loc < 0x80000000 := by decide
/-- Its VF has bus mastering, one page of overflow window, and a budget. -/
def ovfP : Package := { gladeP with
  fns := [(1, { bme := true, ovfSize := 1, noGlade := false })]
  comm := { gladeP.comm with budget := [(1, 64)] }
  rt := { linkUp := true, credit := true, ovfPend := [⟨0, 1, 0, 0, 64⟩], reads := [⟨5, 1, 0, 64, .overflow 0 1 0⟩] } }
def ovfDma : Dma := { dstX := 0, dstY := 0, loc := 0x80000000 + 4096 - 64, leaf := 0, granules := 1, ord := false }
theorem witness_NiDma_2 :
    let s := one ovfP
    (s.pkg 0).isOverflow 0 ovfDma = true ∧
    ovfDma.loc - 0x80000000 + 64 * ovfDma.granules ≤ 4096 * ((s.pkg 0).fn ((s.pkg 0).fnOf 0)).ovfSize ∧
    4096 * ((s.pkg 0).fn ((s.pkg 0).fnOf 0)).ovfSize < ovfDma.loc - 0x80000000 + 64 * 2 ∧
    ((s.pkg 0).fn ((s.pkg 0).fnOf 0)).master = true ∧ ((s.pkg 0).fn ((s.pkg 0).fnOf 0)).inReset = false ∧
    ((s.pkg 0).bole 0).cause.leaf &&& 1 = 0 := by decide
/-- A request of the overflow stream of VF 1. -/
def ovfEnt : ArbEntry := { req := 65, len := 1, lock := false, isWrite := false, cls := 2, stamp := 0 }
theorem witness_NiDma_3 :
    let s := one { ovfP with arbs := [(32, { plan := .keep, cur := some { e := ovfEnt, lockLeft := 0 } })] }
    let c : ArbCur := { e := ovfEnt, lockLeft := 0 }
    (s.pkg 0).ovfHead 1 = some ⟨0, 1, 0, 0, 64⟩ ∧ (s.pkg 0).readRoom 1 = true ∧ ((s.pkg 0).arb 32).driven = false ∧
    ((s.pkg 0).arb 32).plan = .keep ∧ ((s.pkg 0).arb 32).withdraw = false ∧ ((s.pkg 0).arb 32).cur = some c ∧
    c.e.req = 64 + (1 : FnIx).val ∧ c.ownerDead = false ∧ (s.pkg 0).rt.credit = true ∧
    (s.pkg 0).arbAdmits 32 ovfEnt = true ∧ (s.pkg 0).readTagged 5 = some ⟨5, 1, 0, 64, .overflow 0 1 0⟩ := by decide
theorem witness_NiDma_4 :
    let s := one { ovfP with rt := { linkUp := true, credit := true } }
    (s.pkg 0).arb 32 = Arb.init 32 ∧ (s.pkg 0).rt.credit = true ∧ (s.pkg 0).fnOf 0 = 1 ∧
    ∀ f : FnIx, (s.pkg 0).ovfHead f = none := by decide
theorem witness_BudgetsZeroingAndScrubbing :
    let s := one { gladeP with
      boles := [(0, { runB with leaf := { mem := { ecc := [(3, 1)] } } })], west := { ecc := [(3, 1)] } }
    ((List.range 17).map fun g => ((s.pkg 0).stag.budget.set 1 3750).get 0 g).sum ≤ (s.pkg 0).rt.ovfCeil ∧
    (s.pkg 0).rt.ovfCeil < ((List.range 17).map fun g => ((s.pkg 0).stag.budget.set 1 3751).get 0 g).sum ∧
    (s.pkg 0).rt.zeroBusy = false ∧ ((s.pkg 0).bole 0).leaf.mem.ecc.get 0 3 = 1 ∧ ((s.pkg 0).heart .west).ecc.get 0 3 = 1 ∧
    let z := one { gladeP with rt := { zeroBusy := true } }
    (z.pkg 0).live = true ∧ (z.pkg 0).rt.zeroBusy = true ∧ (z.stand (z.leadOf (0 / 64))).replant = none ∧
    (z.pkg 0).comm.vfGlade.get 0 ((z.pkg 0).rt.zeroSlot + 1) ≠ 0 ∧
    (z.pkg 0).tagOf 0 = (z.pkg 0).comm.vfGlade.get 0 ((z.pkg 0).rt.zeroSlot + 1) := by decide

/-! ### Chapters 04 and 05 -/

def ent (r : Nat) : ArbEntry := { req := r, len := 1, lock := false, isWrite := false, cls := 1, stamp := r }
theorem witness_ArbiterDecisionsAndBounds :
    (∀ x ∈ [ent 0, ent 1], x.stamp < 4096 ∧ subMod 4096 x.stamp 0 < 2048) ∧ bestOf [ent 0, ent 1] = some (ent 0) ∧
    oldestOf [ent 0, ent 1] = some (ent 0) ∧ (Arb.init 0).q.length ≤ 16 ∧
    ({ cnt := 7 } : Arb).cnt < ({ cnt := 7 } : Arb).n := by decide
/-- One package whose arbiter 0 is as given. -/
def arbS (a : Arb) : State := one { upP with arbs := [(0, a)] }
/-- Every bole of such a package is up: no requester of a slice arbiter is masked. -/
theorem arbS_noMask (a : Arb) (r : Nat) : ((arbS a).pkg 0).siteMasked 0 r = false := by
  have h : ∀ r : Fin 32, upP.up (portBole (sliceHalf 0) r) = true := by decide
  unfold Package.siteMasked
  by_cases hr : r < 32
  · have := h ⟨r, hr⟩
    rw [if_pos (by decide), if_pos hr, show ((arbS a).pkg 0).up (portBole (sliceHalf 0) r) = true from this]; rfl
  · have h33 : upP.halfDown (otherHalf (sliceHalf 0)) = false := by decide
    rw [if_pos (by decide), if_neg hr, show ((arbS a).pkg 0).halfDown (otherHalf (sliceHalf 0)) = false from h33, Bool.and_false]
theorem witness_ArbiterRows_1 :
    let s := arbS {}
    let f := arbS { q := (List.range 16).map ent }
    ((s.pkg 0).live = true ∧ (33 : Nat) < 34 ∧ ((s.pkg 0).arb 0).refused = [] ∧ ((s.pkg 0).arb 0).masked.contains 33 = false ∧
      (s.pkg 0).siteMasked 0 33 = false ∧
      ((s.pkg 0).arb 0).q.any (fun e => e.req == 33 && !e.loser) = false ∧ ((s.pkg 0).arb 0).q.length < 16) ∧
    (((f.pkg 0).arb 0).q.any (fun e => e.req == 33 && !e.loser) = false ∧ ((f.pkg 0).arb 0).q.length = 16) := by decide
theorem witness_ArbiterRows_2 :
    let g := arbS { q := [ent 3] }
    let r := arbS { q := [ent 3], cnt := 7 }
    ((g.pkg 0).arbRuns (g.env 0) 0 = true ∧
      ((g.pkg 0).arb 0).cur = none ∧ ((g.pkg 0).arb 0).plan = .idle ∧ ((g.pkg 0).arb 0).cnt ≠ ((g.pkg 0).arb 0).n - 1 ∧
      bestOf (((g.pkg 0).arb 0).q.filter fun x => !((g.pkg 0).arb 0).masked.contains x.req && (g.pkg 0).arbAdmits 0 x) =
        some (ent 3) ∧ (ent 3).reserve = false) ∧
    (((r.pkg 0).arb 0).cnt = ((r.pkg 0).arb 0).n - 1 ∧
      oldestOf (((r.pkg 0).arb 0).q.filter fun x => !((r.pkg 0).arb 0).masked.contains x.req && (r.pkg 0).arbAdmits 0 x) =
        some (ent 3)) := by decide
theorem witness_ArbiterRows_3 :
    let l : ArbEntry := { ent 3 with loser := true, ctx := true }
    let s := arbS { q := [ent 3, l], ctxFree := 15 }
    ((s.pkg 0).arb 0).plan = .idle ∧ ((s.pkg 0).arb 0).q.find? (fun e => e.req == 3 && e.loser == false) = some (ent 3) ∧
    ((s.pkg 0).arb 0).q.find? (fun e => e.req == 3 && e.loser == true) = some l := by decide
theorem witness_ArbiterRows_4 :
    let s := arbS { plan := .keep, cur := some { e := ent 2, lockLeft := 0 } }
    let m := one { upP with boles := [(0, { st := .off })], arbs := [(0, { driven := true, q := [ent 0] })] }
    ((s.pkg 0).arb 0).plan = .keep ∧ ((s.pkg 0).arb 0).cur = some { e := ent 2, lockLeft := 0 } ∧
    ((m.pkg 0).siteMasked 0 0 = true ∧ (m.pkg 0).arbRuns (m.env 0) 0 = true ∧ ((m.pkg 0).arb 0).driven = true ∧
      ((m.pkg 0).arb 0).masked.contains 0 = false ∧ (m.pkg 0).siteMasked 0 1 = false) ∧
    (s.pkg 0).rt.lock = false ∧ ((one { upP with rt := { lock := true } }).pkg 0).rt.lock = true ∧
    16 * (2 : Fin 6).val + 1 < arbRequesters 0 := by decide

def cst (f : SpFmt) : CStore :=
  { tile := 0, rows := 1, cols := 64, fmt := f, mdAddr := 1024, stride := 1, val := 2048
    dtype := .bf16, voff := 0 }
theorem witness_SparseRecordsAreChecked :
    recCheck .bitmap 2 0 (List.replicate 16 0) = 0 ∧ recCheck .two4 2 64 (List.replicate 8 0x44) = 0 ∧
    0 % (cst .bitmap).dtype.es = 0 ∧ 0 + 64 * (cst .bitmap).dtype.es * [(0, 0)].length < 2 ^ 32 := by decide
def step0 : MatStep :=
  { fmt := .dense, mdAddr := 0, stride := 1, val := 0, vasize := 0, dtype := .bf16, check := false, k := 64
    panel := 0x100000, cin := 0x200000, dest := 0x300000 }
theorem witness_MatrixStepsAndStealing_1 :
    let s := oneBole runB
    (List.replicate 16 ({} : SpLane)).length = 16 ∧ (s.pkg 0).live = true ∧ (s.pkg 0).up 0 = true ∧
    ((s.pkg 0).bole 0).sp.staged = none ∧ step0.operandsOk = true ∧
    step0.val + 4096 * step0.stride * step0.dtype.es ≤ 0x600000 ∧ step0.panel + 64 * step0.k * step0.dtype.es ≤ 0x600000 ∧
    step0.cin + 16384 ≤ 0x600000 ∧ step0.dest + 16384 ≤ 0x600000 := by decide
def spx : SpStep := { m := step0, panel := [], recs := [], vals := [], tile := [] }
theorem witness_MatrixStepsAndStealing_2 :
    let s := oneBole { runB with sp := { staged := some spx } }
    let w : SpStep := { spx with m := { step0 with fmt := .bitmap }, lanes := { q := [⟨0, 0, 9, 0⟩] } :: List.replicate 15 {} }
    let e : SpStep := { spx with m := { step0 with fmt := .bitmap } }
    (((s.pkg 0).bole 0).sp.cur = none ∧ ((s.pkg 0).bole 0).sp.staged = some spx ∧ ((s.pkg 0).bole 0).running = true) ∧
    (w.lanes.length = 16 ∧ w.walked = false) ∧ e.walked = true := by decide
theorem witness_CompressingStores_1 :
    let s := oneBole runB
    let c := cst .bitmap
    c.cols % 64 = 0 ∧ c.cols / 64 ≤ c.stride ∧ c.mdAddr % 16 = 0 ∧ c.tile + 4 * (c.rows * c.cols) ≤ 0x600000 ∧
    storeRecEnd c c.rows (c.cols / 64) ≤ 0x600000 ∧
    ∀ w ∈ valueWrites c (cstoreEl c false (Memory.readN ((s.pkg 0).bole 0).leaf.mem.bytes c.tile (4 * (c.rows * c.cols))))
      c.voff (setUnits c.rows (c.cols / 64)), w.1 + w.2.length ≤ 0x600000 := by decide
theorem witness_CompressingStores_2 :
    let s := oneBole runB
    ∀ tr ∈ [true, false], ∀ c ∈ [{ cst .two4 with rows := 64 }],
      c.fmt ≠ .dense ∧ (if tr then c.rows else c.cols) % 64 = 0 ∧ (if tr then c.rows else c.cols) / 64 ≤ c.stride ∧
      c.mdAddr % c.fmt.recSize = 0 ∧ c.tile + 4 * (c.rows * c.cols) ≤ 0x600000 ∧
      storeRecEnd c (if tr then c.cols else c.rows) ((if tr then c.rows else c.cols) / 64) ≤ 0x600000 ∧
      ∀ w ∈ maskWrites c (cstoreEl c tr (Memory.readN ((s.pkg 0).bole 0).leaf.mem.bytes c.tile (4 * (c.rows * c.cols))))
        (setUnits (if tr then c.cols else c.rows) ((if tr then c.rows else c.cols) / 64))
        ((maskRecAddrs c (setUnits (if tr then c.cols else c.rows) ((if tr then c.rows else c.cols) / 64))).map
          (Memory.read ((s.pkg 0).bole 0).leaf.mem.bytes)), w.1 + w.2.length ≤ 0x600000 := by decide +kernel

/-! ### Chapters 06, 07 and 10 -/

def eft0 : Eft :=
  { kind := 3, inbox := 1, dstX := 1, dstY := 0, srcX := 0, srcY := 0, group := 0, word := 0, rop := 0, fmt := 0, dx := false
    dy := false, epoch := 0, data := 7 }
theorem witness_HeadersAndEftsRoundTrip :
    hd.vn < 4 ∧ hd.vc < 2 ∧ PktOp.ofCode hd.op.code = hd.op ∧ hd.op.code < 16 ∧ hd.dstX < 512 ∧ hd.tag < 32768 ∧
    ({ hd with ecrc := 65535, alive := 65535, loc := 2 ^ 32 - 1 } : Head).ecrc < 65536 ∧
    eft0.kind < 16 ∧ eft0.inbox < 16 ∧ eft0.group < 64 ∧ eft0.word < 8 ∧ eft0.epoch < 64 := by decide
/-- A flit of bole 0 on its way east to bole 3, in the router's injection buffer. -/
def flitE : Flit := { hdr := .head { hd with dx := false, dy := false, dstY := 0 }, data := List.replicate 64 0 }
def fwdS : State := one { upP with rtrs := [(0, { buf := [(vkey 4 0 0, [flitE])] })] }
def fwdSrc : Src := { stage := 0, port := 4, vn := 0, x := 0 }
def fwdMove : Move := { port := 1, key := vkey 1 0 0, vc := 0, isDet := false, dest := .buf 9 (vkey 3 0 0) false }
theorem witness_FabricRows :
    (fwdS.pkg 0).live = true ∧ (fwdS.pkg 0).portsUsed (fwdS.env 0) 0 ((fwdS.pkg 0).candidates 0 (Port.num .bole) 0 0) = false ∧
    (fwdS.pkg 0).pickSrc (fwdS.env 0) 0 (Port.num .bole) 0 0 = fwdSrc ∧
    (fwdS.pkg 0).hop 0 4 = .bole 0 ∧ (fwdS.pkg 0).srcHead 0 fwdSrc = some flitE ∧
    expired (fwdS.pkg 0).tk.tickNum flitE.age = false ∧ flitE.isHead = true ∧
    (fwdS.pkg 0).moveOf (fwdS.env 0) 0 fwdSrc = some fwdMove ∧ (fwdS.pkg 0).grants (fwdS.env 0) 0 fwdSrc fwdMove = true ∧
    (9 : Nat) ≠ (0 : RtrIx) ∧ expired 7 (6 % 4) = false ∧ expired 8 (6 % 4) = true := by decide
def push0 : Push := { op := .write, dstX := 1, dstY := 0, loc := 64, ord := false, src := 0, len := 64, body := [] }
theorem witness_PushAndInject_1 :
    let s := one gladeP
    (s.pkg 0).live = true ∧ (s.pkg 0).up 0 = true ∧ ((s.pkg 0).bole 0).running = true ∧ push0.op.vn = 0 ∧
    1 ≤ push0.granules ∧ push0.granules ≤ 32 ∧ (((s.pkg 0).bole 0).ni.q.get [] 0).length < 32 ∧
    (s.pkg 0).pushFault 0 push0 push0.granules = none := by decide
theorem witness_PushAndInject_2 :
    let s := oneBole { runB with ni := { q := [(0, List.replicate 32 { what := .req push0 1 })] } }
    32 ≤ (((s.pkg 0).bole 0).ni.q.get [] push0.op.vn).length ∧ ((s.pkg 0).bole 0).running = true := by decide
theorem witness_PushAndInject_3 :
    let s := one { gladeP with boles := [(0, { runB with ni := { q := [(0, [{ what := .req push0 1, op := 1 }])] } })] }
    (s.pkg 0).injUsed 0 0 s.now = false ∧
    ((s.pkg 0).niAdvance 0 s.now).injPick (s.env 0) 0 = some 0 ∧ ((s.pkg 0).bole 0).ni.inj.get [] 0 = [] ∧
    ((s.pkg 0).bole 0).ni.dueReq (s.pkg 0).tk.tickNum = none ∧
    ((s.pkg 0).bole 0).ni.q.get [] 0 = { what := .req push0 1, op := 1, pushedAt := 0 } :: [] := by decide

/-- The NI of bole 0 without its oldest packet of an opcode. -/
def takenNi (s : State) (op : PktOp) : Ni :=
  match ((s.pkg 0).bole 0).ni.take op with
  | some (_, _, n) => n
  | none => {}
/-- A packet for bole 0 from the bole at (1, 0) with its ECRC, one flit, not poisoned. -/
def pkt (op : PktOp) (loc : Nat) (pay : List Byte) : List Flit :=
  mkPacket { hd with op := op, vn := op.vn, dstX := 0, dstY := 0, srcX := 1, tag := 5, loc := loc, alive := 1 } 1 pay []
/-- The head of the first flit. -/
def headOf (fs : List Flit) : Head := match fs with | { hdr := .head h, .. } :: _ => h | _ => hd
/-- One package whose bole 0 holds this whole packet, its NI otherwise as given. -/
def rxS (n : Ni) (fs : List Flit) : State :=
  one { gladeP with boles := [(0, { runB with ni := { n with
    rx := [{ vn := (headOf fs).vn, vc := 0, flits := fs, whole := true }] } })] }
theorem rxS_memWf (n : Ni) (fs : List Flit) : (rxS n fs).memWf := by
  refine memWf_one _ ⟨fun k => ?_, rfl, rfl⟩
  match k with
  | 0 => rfl
  | k + 1 => rfl
def reqOf (fs : List Flit) : Req := { h := headOf fs, fs := fs, p := payloadOf fs }
set_option maxRecDepth 100000 in
/-- The packet is gathered at bole 0, whatever the rest of its NI. -/
theorem gathered_write (n : Ni) (loc : Nat) (pay : List Byte) (op : PktOp)
    (h : op = .write ∨ op = .writeShort ∨ op = .read ∨ op = .atomic ∨ op = .signal ∨ op = .readData ∨ op = .ack ∨ op = .nack ∨
      op = .atomicResult) :
    (rxS n (pkt op loc pay)).gathered 0 0 op (headOf (pkt op loc pay)) (pkt op loc pay)
      (takenNi (rxS n (pkt op loc pay)) op) := by
  refine ⟨⟨rfl, rfl⟩, ?_⟩
  rcases h with rfl | rfl | rfl | rfl | rfl | rfl | rfl | rfl | rfl <;> rfl
/-- Where this Bool says so, the packet is sound but for its ECRC, which mkPacket makes right, its request is of a class that
is carried out, and it passes every check. -/
def checkOk (op : PktOp) (loc : Nat) (pay : List Byte) : Bool :=
  let fs := pkt op loc pay
  let n := takenNi (rxS {} fs) op
  decide (n.aborting = false ∧ n.quarantine = none ∧ malformed op fs = false ∧ pktPoison fs = false ∧
    ((rxS {} fs).pkg 0).check 0 (reqOf fs) = (0, 0) ∧ n.classify (headOf fs) = .fresh)
theorem ecrcGood_pkt (op : PktOp) (loc : Nat) (pay : List Byte) : ecrcGood (pkt op loc pay) = true :=
  ecrcGood_mkPacket _ _ _ _ (by decide)
set_option maxRecDepth 100000 in
theorem witness_RequestsAreCarriedOut : checkOk .write 64 [] = true ∧
    checkOk .writeShort 72 (List.replicate 56 0 ++ [56]) = true ∧ checkOk .signal 0 [255, 0, 0, 0, 1] = true ∧
    checkOk .read 64 [0, 0, 0, 0, 31] = true ∧ checkOk .read 0x01000000 [0, 1, 0, 0] = true ∧
    checkOk .atomic 8 [8, 1] = true ∧ checkOk .atomic 8 [9, 0] = true := by decide +kernel
theorem witness_AtomicNewValues : ∀ a ∈ [0, 1, 3, 4, 5, 6, 7, 8, 9],
    ({ h := hd, fs := [], p := [BitVec.ofNat 8 a] } : Req).aop = a := by decide
/-- A suppression entry for packets of the source of pkt, its H as given. -/
def sup (h : Nat) (done : BitVec 64) : Dedup := { srcX := 1, srcY := 0, tag := 5, h := h, done := done, last := 4 }
set_option maxRecDepth 100000 in
theorem witness_RefusedRequestsChangeNothing_1 :
    let fs := pkt .write 64 []
    let q := rxS { quarantine := some 8 } fs
    requestCmd 0 0 {} .write = some (.write 0 0 {}) ∧ q.gathered 0 0 .write (headOf fs) fs (takenNi q .write) ∧
    (takenNi q .write).quarantine ≠ none := ⟨rfl, gathered_write _ _ _ _ (by simp), by decide⟩
/-- One flit for bole 0, of this head. -/
def oneFlit (h : Head) : List Flit := [{ hdr := .head h, data := List.replicate 64 0 }]
def hdW : Head := { hd with op := .write, vn := 0, dstX := 0, dstY := 0, srcX := 1, tag := 5, loc := 64, alive := 1 }
set_option maxRecDepth 100000 in
theorem witness_RefusedRequestsChangeNothing_2 :
    let long := mkPacket { hdW with op := .read } 2 [] []
    let wrong := oneFlit { hdW with ecrc := 1 }
    let pois := oneFlit { hdW with poison := true }
    (malformed .read long = true ∧ ((rxS {} long).pkg 0).live = true) ∧
    (malformed .write wrong = false ∧ pktPoison wrong = false ∧ ecrcGood wrong = false) ∧
    (malformed .write pois = false ∧ pktPoison pois = true ∧ ((rxS {} pois).pkg 0).check 0 (reqOf pois) = (3, 64)) := by
  decide +kernel
theorem witness_RefusedRequestsChangeNothing_3 :
    let bad := pkt .write 0x600000 []
    ((rxS {} bad).pkg 0).check 0 (reqOf bad) = (1, 0x600000) ∧
    ({ dedup := [sup 1 1] } : Ni).classify hdW = .duplicate ∧ ({ dedup := [sup 32769 0] } : Ni).classify hdW = .stale ∧
    ({ dedup := List.replicate 512 { sup 0 0 with tag := 9 } } : Ni).classify hdW = .full ∧
    (({ dedup := [sup 2 1] } : Ni).classify { hdW with ord := true } = .late ∧ (sup 2 1).ordOk 1 = false) := by decide +kernel
theorem witness_CarriedOutOnlyOnce :
    (sup 65535 1).classOf 63 = .ahead ∧ (sup 65535 1).classOf 64 = .reset ∧ (sup 0 1).classOf 32767 = .reset ∧
    (sup 0 1).classOf 32768 = .stale ∧ (sup 0 1).classOf 65472 = .stale ∧ (sup 0 1).classOf 65473 = .late ∧
    ({ dedup := [sup 1 3] } : Ni).classify { hdW with alive := 1 } = .duplicate ∧
    ({ dedup := [sup 1 3] } : Ni).classify { hdW with alive := 2 } = .ahead ∧ (sup 1 3).done.getLsbD 0 = true ∧
    ({ dedup := [sup 1 3] } : Ni).classify { hdW with tag := 6 } = .fresh := by decide +kernel
def rec0 : ReqRec := { dstX := 1, dstY := 0, alive := 1, q := push0, granules := 1, op := 1, window := 0 }
theorem witness_AnswersAndRequesterTicks_1 : ∀ op ∈ [PktOp.readData, .ack, .nack, .atomicResult],
    let fs := pkt op 0 [4]
    let s := rxS { reqs := [rec0], ops := [{ id := 1, unsent := 0, awaiting := 1 }] } fs
    answerCmd 0 0 op ≠ none ∧ malformed op fs = false ∧
    (((s.pkg 0).bole 0).ni.reqsTo (headOf fs).srcX (headOf fs).srcY).find? (fun r => r.alive == (headOf fs).alive) = some rec0 ∧
    pktPoison fs = false ∧ rec0.resent = false ∧ fld (payloadOf fs) 0 1 = 4 := by decide +kernel
theorem witness_AnswersAndRequesterTicks_2 :
    let fs := pkt .nack 0 [5]
    let r : ReqRec := { rec0 with resent := true, bad := 1, due := some 2 }
    let s := rxS { reqs := [r] } fs
    (((s.pkg 0).bole 0).ni.reqsTo (headOf fs).srcX (headOf fs).srcY).find? (fun r => r.alive == (headOf fs).alive) = some r ∧
    5 ≤ fld (payloadOf fs) 0 1 ∧ r.resent = true ∧ 1 ≤ r.bad ∧
    (((rxS {} fs).pkg 0).bole 0).ni.reqsTo (headOf fs).srcX (headOf fs).srcY = [] := by decide +kernel
theorem witness_AnswersAndRequesterTicks_3 :
    let s := one { upP with tk := { tickNum := 2 }, boles := [(0, { ni := { reqs := [rec0] } })] }
    let t := one { upP with tk := { tickNum := 4 }, boles := [(0, { ni := { reqs := [{ rec0 with due := some 2 }] } })] }
    let q := one { upP with tk := { tickNum := 8 }, boles := [(0, { ni := { quarantine := some 8 } }), (1, { ni := { quarantine := some 9 } })] }
    (((s.pkg 0).bole 0).ni.reqs = [rec0] ∧ rec0.resent = false ∧ rec0.due = none ∧ rec0.window + 2 ≤ (s.pkg 0).tk.tickNum) ∧
    ({ rec0 with due := some 2 } ∈ ((t.pkg 0).bole 0).ni.reqs ∧ 2 + 2 ≤ (t.pkg 0).tk.tickNum) ∧
    (((q.pkg 0).bole 0).ni.quarantine = some 8 ∧ 8 ≤ (q.pkg 0).tk.tickNum ∧ ((q.pkg 0).bole 1).ni.quarantine = some 9 ∧
      (q.pkg 0).tk.tickNum < 9) ∧ (q.pkg 0).up 0 = true ∧ (q.pkg 0).live = true := by decide
theorem witness_SuppressionEntriesAreEvicted : ((one upP).pkg 0).live = true ∧ ((one upP).pkg 0).up 0 = true ∧
    (5 : Int) ≤ (9 : Int) - ((sup 1 1).last : Int) ∧ ¬ (5 : Int) ≤ (8 : Int) - ((sup 1 1).last : Int) := by decide

/-! ### Chapter 08 -/

/-- A schedule entry as its 64 bits (Table 8.2). -/
def entW (x : SEntry) : BitVec 64 :=
  BitVec.ofNat 64 (b2n x.v + 2 * x.inp + 16 * x.out + 128 * x.win + 2048 * x.start + 2 ^ 28 * x.len + 2 ^ 40 * x.slack +
    2 ^ 52 * x.stream + 2 ^ 62 * x.pace)
/-- Injection to the east of 4 flits on stream 1, from cycle 100. -/
def entI : SEntry := { v := true, inp := 4, out := 1, win := 0, start := 100, len := 4, slack := 0, stream := 1, pace := 0 }
/-- A router that runs this entry as its entry 0 in window 0. -/
def runSched (x : SEntry) : Sched :=
  { active := 1, hdrA := { periodUs := 20, m := 1, entries := 1, tag := 5 }, entries := [(0, entW x)]
    streams := [(1, { flits := 4, credit := 1 })] }
def schedS (k : Nat) (x : SEntry) (now : Nat) (S : Sched → Sched) (R : Router) : State :=
  { one { gladeP with boles := [(k, { runB with sched := S (runSched x) })], rtrs := [(upP.rtrOf k, R)] } with now := now }
theorem witness_ReservedCycles :
    let P := (schedS 0 entI 100 id {}).pkg 0
    let e := (schedS 0 entI 100 id {}).env 0
    P.injUsed 0 0 100 = false ∧
    (0, entI) ∈ (P.bole 0).sched.running P.tk.tickNum ∧ entI.inp = 4 ∧ entI.reserves (P.cyc e) = true ∧ linkOf 0 entI.out = none ∧
    (linkOf 0 3 = some 12 ∧ P.linkIdle e 12 = false) ∧
    P.boleAt 0 = some 0 ∧ entI ∈ P.entriesAt e 0 fwdMove.port ∧
    (P.bole 0).sched.active ≠ 0 ∧ inGuard 4 3 (1500 * P.tk.period) = true ∧ inGuard 4 29996 (1500 * P.tk.period) = true ∧
    (({ entI with pace := 1 } : SEntry).len % 4 = 0 ∧ ({ entI with pace := 2, len := 24 } : SEntry).len % 24 = 0) := by decide
theorem witness_BanksAreLoadedArmedAndSwitched_1 :
    let s := schedS 0 entI 0 (fun S => { S with stopping := true }) {}
    (s.pkg 0).live = true ∧ (s.pkg 0).ready = true ∧ (s.pkg 0).up 0 = true ∧
    ((s.pkg 0).bole 0).sched.active = 1 ∧ bankHolds ((s.pkg 0).bole 0).sched.active 4095 = true ∧
    bankHolds ((s.pkg 0).bole 0).sched.active 4096 = false ∧ (s.stand (s.leadOf (0 / 64))).replant = none ∧
    (s.stand (s.leadOf (0 / 64))).waiting = [] ∧ ((s.pkg 0).bole 0).sched.stopping = true := by decide
theorem witness_BanksAreLoadedArmedAndSwitched_2 :
    let s := schedS 0 entI 0 (fun S => { S with active := 0, checking := some 3, switchTick := 5 }) {}
    let b := schedS 0 { entI with len := 0 } 0 (fun S => { S with active := 0, checking := some 3, switchTick := 4 }) {}
    (((s.pkg 0).bole 0).sched.checking = some 3 ∧ (s.pkg 0).bankBad (s.env 0) 0 = none ∧
      3 + 2 ≤ ((s.pkg 0).bole 0).sched.switchTick) ∧
    ((b.pkg 0).bankBad (b.env 0) 0 = some 0 ∧ ((b.pkg 0).bole 0).sched.switchTick < 3 + 2) := by decide
theorem witness_BanksAreLoadedArmedAndSwitched_3 :
    let s := schedS 0 entI 0 (fun S => { S with active := 0, armed := true }) {}
    let S := ((s.pkg 0).bole 0).sched
    S.armed = true ∧ S.switchTick ≤ (s.pkg 0).tk.tickNum ∧ (s.pkg 0).tk.lost = false ∧
    (S.hdr S.standby).periodUs = (s.pkg 0).tk.periodNow ∧ (S.hdr S.standby).tag = (s.pkg 0).tagOf 0 ∧
    (S.hdr S.standby).periodUs ≠ 8 ∧ ((one upP).pkg 0).live = true ∧ (((one upP).pkg 0).bole 0).sched.armed = false := by decide
def occI : Occ := { d := { flits := 4, credit := 1 }, k := 0, window := 0, data := [([1], false)] }
def sf : SchedFlit := { stream := 1, idx := 0, poison := false, isVoid := false, win2 := 0, tag := 5, data := [] }
theorem witness_StreamsAreSentLandedAndRecorded_1 :
    let s := schedS 0 entI 68 id {}
    let z := schedS 0 entI 68 (fun S => { S with streams := [(1, { flits := 4, credit := 0 }), (2, { credit := 255 })] }) {}
    let S := ((s.pkg 0).bole 0).sched
    (S.stream 1).eject = false ∧ (S.stream 1).credit < 255 ∧ 255 ≤ (((z.pkg 0).bole 0).sched.stream 2).credit ∧
    (s.pkg 0).aheadOf (s.env 0) 0 0 = some (entI, 0) ∧ 0 < (S.stream 1).flits ∧ 1 ≤ (S.stream 1).credit ∧
    (z.pkg 0).aheadOf (z.env 0) 0 0 = some (entI, 0) ∧ (((z.pkg 0).bole 0).sched.stream 1).credit = 0 ∧
    0 = (s.pkg 0).tk.tickNum ∧
    (s.pkg 0).aheadWin { now := 29999, w := 1, h := 1 } { entI with start := 31 } = some 1 := by decide
theorem witness_StreamsAreSentLandedAndRecorded_2 :
    let s := schedS 0 entI 101 (fun S => { S with occ := [(2, some { occI with data := [([1], false), ([2], false)] })] }) {}
    let t := schedS 1 { entI with inp := 3 } 103 id { landing := [(3, [(103, sf)])] }
    let o : Occ := { occI with data := [([1], false), ([2], false)] }
    ((s.pkg 0).runningEntry 0 0 = some entI ∧ (s.pkg 0).entryUsed s.now 0 0 = false ∧
      entI.slotIx ((s.pkg 0).cyc (s.env 0)) = some 1 ∧ linkOf 0 entI.out = none ∧
      (s.pkg 0).schedHop 0 entI.out = some (9, 3, 2, none) ∧ ((s.pkg 0).bole 0).sched.occAt 1 0 = some o ∧
      o.window = (s.pkg 0).tk.tickNum ∧ o.d.eject = false ∧ o.seen ≤ 1 ∧ o.data[1]? = some ([2], false)) ∧
    ((t.pkg 0).runningEntry 1 0 = some { entI with inp := 3 } ∧ (t.pkg 0).entryUsed t.now 1 0 = false ∧
      ({ entI with inp := 3 } : SEntry).slotIx ((t.pkg 0).cyc (t.env 0)) = some 3 ∧ linkOf 1 3 = none ∧ linkOf 1 1 = none ∧
      (t.pkg 0).schedHop 1 1 = some (18, 3, 2, none) ∧ 18 ≠ (t.pkg 0).rtrOf 1 ∧ (t.pkg 0).landHead t.now 1 3 = some sf) := by decide
/-- Injection of stream 1 into the link to the west of bole 0. -/
def entL : SEntry := { entI with out := 3 }
theorem witness_StreamsAreSentLandedAndRecorded_3 :
    let s := schedS 0 entL 100 (fun S => { S with occ := [(2, some occI)] }) {}
    let P : Package := { (s.pkg 0) with links := [(12, { train := .active })], comm := { (s.pkg 0).comm with owner := [(12, 5)] } }
    P.runningEntry 0 0 = some entL ∧ linkOf 0 entL.out = some 12 ∧ P.linkIdle (s.env 0) 12 = false ∧
    P.tagOf 0 = P.comm.owner.get 0 12 ∧ (P.link 12).train = .active ∧ entL.slotIx (P.cyc (s.env 0)) = some 0 ∧
    occI.data[0]? = some ([1], false) := by decide
/-- Ejection of stream 1 from the west. -/
def entE : SEntry := { entI with inp := 3, out := 4 }
def ejD : Stream := { eject := true, flits := 4, flag := 0x5FFFF0 }
def ejS (f : SchedFlit) : State := schedS 1 entE 103 (fun S => { S with streams := [(1, ejD)] }) { landing := [(3, [(103, f)])] }
def ejO : Occ := { d := ejD, k := 0, window := 0, endAt := 103 + 100 + entE.span + 47 - 103 }
theorem witness_StreamsAreSentLandedAndRecorded_4 :
    ∀ f ∈ [sf, { sf with poison := true }, { sf with isVoid := true }, { sf with hdrBad := true }, { sf with tag := 6 }],
    let s := ejS f
    (s.pkg 0).up 1 = true ∧ (s.pkg 0).runningEntry 1 0 = some entE ∧ (s.pkg 0).entryUsed s.now 1 0 = false ∧
    entE.ejects 1 ((s.pkg 0).cyc (s.env 0)) = true ∧ (s.pkg 0).landHead s.now 1 entE.inp = some f ∧
    (f.checked .clean).bind (fun f => f.checked .clean) = some f ∧ ((s.pkg 0).ejectOcc (s.env 0) 1 entE).map (fun x => x.1) = some ejO ∧
    (f.tag = (s.pkg 0).tagOf 1 - 1 ∧ f.stream = entE.stream ↔ f.tag = 5) ∧
    ejO.d.bufAt ejO.k + 64 * f.idx + 64 ≤ 0x600000 := by decide
def occE (sel : Bool) : Occ := { d := { ejD with flagSel := sel }, k := 0, window := 0, seen := 4, lastAt := some 55, endAt := 151 }
theorem witness_StreamsAreSentLandedAndRecorded_5 : ∀ sel ∈ [false, true],
    let s := schedS 1 entE 103 (fun S => { S with occ := [(2, some (occE sel))] }) {}
    (s.pkg 0).dueOcc (s.env 0) 1 1 = some (occE sel, ((s.pkg 0).bole 1).sched) ∧ (occE sel).d.flagSel = sel ∧
    (occE sel).d.flag ≠ 0 ∧ (occE sel).d.flag + 16 ≤ 0x600000 := by decide
theorem witness_StreamsAreSentLandedAndRecorded_6 :
    let o : Occ := { occI with d := { flits := 4, flag := 0x5FFFF0 }, seen := 1 }
    let s := schedS 0 entI 103 (fun S => { S with occ := [(2, some o)] }) {}
    [((s.pkg 0).bole 0).sched.occAt 1 1, ((s.pkg 0).bole 0).sched.occAt 1 0].reduceOption.find? Occ.sent = some o ∧ o.d.flagSel = false ∧
    o.d.flag ≠ 0 ∧ o.d.flag + 16 ≤ 0x600000 := by decide
theorem schedS_memWf (x : SEntry) : (schedS 1 x 103 id {}).memWf := by
  intro p
  by_cases hp : p = 0
  · subst hp
    refine ⟨fun k => ?_, rfl, rfl⟩
    match k with
    | 0 => rfl
    | 1 => rfl
    | k + 2 => rfl
  · have : (schedS 1 x 103 id {}).pkg p = {} := by
      simp only [State.pkg, schedS, one, Tab.get]; simp [hp]
    rw [this]; exact ⟨fun _ => rfl, rfl, rfl⟩
theorem witness_ScheduledFlitsIgnorePowerAndShaping :
    ∃ t, exec (.scheduledFlitSend 0 0 0 .clean .clean) (schedS 0 entI 100 (fun S => { S with occ := [(2, some occI)] }) {}) = .next t :=
  ⟨_, rfl⟩

/-! ### Chapter 09 -/

def set2 : McSet := { x0 := 0, y0 := 0, lsx := 0, lsy := 0, nx := 2, ny := 1 }
def mop : McOp := { set := set2, loc := 64, flag := 0, src := 0, granules := 960, record := 0x200000 }
theorem witness_MulticastQuadrantsAndBranches :
    set2.has 1 0 = true ∧ (∀ x ∈ [(flitE, [1, 4]), (flitE, [4])], x.2 ≠ [] ∧ x.2.Nodup) := by decide
theorem witness_MulticastRows_1 :
    let s := one gladeP
    (s.pkg 0).up 0 = true ∧ ((s.pkg 0).bole 0).running = true ∧ mop.set.inGlade ((s.pkg 0).glade 0) = true ∧ 1 ≤ mop.granules ∧
    mop.granules ≤ 960 ∧ mop.src + 64 * mop.granules ≤ 0x600000 ∧ mop.set.inGlade (((one upP).pkg 0).glade 0) = false ∧
    ((s.pkg 0).bole 0).cause.leaf &&& 1 = 0 := by decide
/-- Head and last flit of a multicast packet of two flits, as far as a router looks at them. -/
def mcH : Head := { hd with ftype := .head, op := .mcast, vn := 2, dx := false, dy := false, dstX := 1, dstY := 0 }
def mcF : Flit := { hdr := .head mcH, data := List.replicate 64 0 }
def mcG : Flit := { hdr := .follow { last := true, vn := 2, vc := 0, poison := false, age := 0, idx := 1 },
                    data := setFlit set2 0 0 0 0 false false false 0 0 0 0 0 }
theorem witness_MulticastRows_2 :
    let s := schedS 0 { entI with start := 0, len := 4095 } 0 id { buf := [(vkey 4 2 0, [mcF, mcG])] }
    (s.pkg 0).boleAt 0 = some 0 ∧ (s.pkg 0).up 0 = true ∧ (s.pkg 0).hop 0 (Port.num .bole) = .bole 0 ∧
    ((s.pkg 0).rtr 0).detour = [] ∧ ((s.pkg 0).rtr 0).buf.get [] (vkey (Port.num .bole) 2 0) = [mcF, mcG] ∧ mcF.isLast = false ∧
    mcF.poison = false ∧ mcG.isHead = false ∧ mcG.isLast = true ∧ expired (s.pkg 0).tk.tickNum mcF.age = false ∧
    expired (s.pkg 0).tk.tickNum mcG.age = false ∧
    ((s.pkg 0).rtr 0).mbuf.get [] (mKey (vkey (Port.num .bole) 2 0)) = [] ∧
    (∀ o, o < 5 → (s.pkg 0).portReserved (s.env 0) 0 o = true) ∧
    (s.pkg 0).branches (s.env 0) 0 4 mcH (setOf mcG.data) ≠ [] := by decide
/-- A whole multicast packet of three flits, SEQ 0 of a packet set of one. -/
def mcPkt : List Flit := mkPacket { mcH with srcX := 1, tag := 5, loc := 64 } 3 (List.replicate 64 0 ++ mcG.data) []
set_option maxRecDepth 100000 in
theorem witness_MulticastRows_3 :
    let s := rxS {} mcPkt
    let n := takenNi s .mcast
    s.gathered 0 0 .mcast (headOf mcPkt) mcPkt n ∧ ecrcGood mcPkt = true ∧ n.dedupOf 1 0 5 = none ∧
    (s.pkg 0).memOk 0 64 64 = true := ⟨⟨⟨rfl, rfl⟩, rfl⟩, ecrcGood_mkPacket _ _ _ _ (by decide), by decide +kernel, by decide +kernel⟩
set_option maxRecDepth 100000 in
theorem witness_MulticastRows_4 :
    let s := rxS {} mcPkt
    let n := takenNi s .mcast
    n.aborting = false ∧ n.quarantine = none ∧ malformed .mcast mcPkt = false ∧ pktPoison mcPkt = false ∧
    n.dedup.length < 512 ∧ (headOf mcPkt).loc % 64 = 0 ∧
    (mcPkt[1]?.map fun g => (mcInfo hdW g.data).npkt) = some 1 ∧ (mcPkt[1]?.map fun g => (mcInfo hdW g.data).flag) = some 0 ∧
    ({ sup 0 0 with mc := [{ opnum := 0, held := 1, npkt := 1 }] } : Dedup).mc.find? (fun r => r.opnum == 0) =
      some { opnum := 0, held := 1, npkt := 1 } := by decide +kernel
/-- A MACK that one of the two members sent, poisoned on its way. -/
def mackF : List Flit :=
  [{ hdr := .head { mcH with op := .reduce, poison := true, ftype := .head }, data := List.replicate 64 0 },
   { hdr := .follow { last := false, vn := 2, vc := 0, poison := true, age := 0, idx := 1 },
     data := setFlit set2 0xFFF 7 3 0 false true false 0 0 1 0 0 },
   { hdr := .follow { last := false, vn := 2, vc := 0, poison := true, age := 0, idx := 2 }, data := List.replicate 64 0 },
   { hdr := .follow { last := true, vn := 2, vc := 0, poison := true, age := 0, idx := 3 }, data := List.replicate 64 0 }]
def mcS (c : Nat) : McSrc := { opnum := 7, op := mop, npkt := 32, firstAt := some (0, 20), lastWin := some 0, tally := [(0, { contrib := c })] }
theorem witness_MulticastRows_5 : ∀ c ∈ [0, 1],
    let s := rxS { mc := [mcS c] } mackF
    (((s.pkg 0).bole 0).ni.takeBy isMack).map (fun x => (x.1, x.2.1)) = some (headOf mackF, mackF) ∧
    malformed .reduce mackF = false ∧ pktPoison mackF = true ∧ (redOf mackF).map (fun x => x.1.chunk) = some 7 ∧
    ((s.pkg 0).bole 0).ni.mc.find? (fun m => m.opnum == 7 % 2048) = some (mcS c) ∧ (mcS c).coll = none ∧
    (redOf mackF).map (fun x => (((mcS c).tally.get {} 0).add x.2).contrib) = some (c + 1) ∧ (mcS c).op.set.size = 2 ∧
    (s.pkg 0).memOk 0 mop.record 128 = true ∧ ctrWindow mop.record = none := by decide +kernel
theorem witness_MulticastRows_6 :
    let s := one { gladeP with tk := { tickNum := 2 }, boles := [(0, { runB with ni := { mc := [mcS 1] } })] }
    let t : State := { one { gladeP with boles := [(0, { runB with ni := { mc := [mcS 1] } })] } with now := 120000 }
    ((s.pkg 0).bole 0).ni.mc.find? (fun m => m.opnum == (7 : Fin 2048).val) = some (mcS 1) ∧
    (mcS 1).lastWin = some 0 ∧ 0 + 2 ≤ (s.pkg 0).tk.tickNum ∧
    ((mcS 1).tally.get {} ((mcS 1).attempt % 16)).contrib < (mcS 1).op.set.size ∧ (mcS 1).coll = none ∧ (mcS 1).firstAt = some (0, 20) ∧
    ((t.pkg 0).bole 0).ni.mc.find? (fun m => m.opnum == (7 : Fin 2048).val) = some (mcS 1) ∧
    0 + 4 * (1500 * 20) ≤ t.now ∧ (mcS 1).stalled = false := by decide
/-- A contribution of the one element 3 to a sum over two members. -/
def contribution (fast : Bool) : RedBody :=
  { set := set2, rop := 0, fmt := 4, acc := false, fast := fast, wide := false, elems := 0, status := 0, contrib := 1, pruned := 0
    flag := 0, loc := 64, age := 0, vc := 0, poison := false, data := [3, 0, 0, 0] }
theorem witness_SumsAndNumberFormats :
    let l := [(4, contribution false), (1, contribution false)]
    (l.map fun x => x.1).Nodup ∧ (∀ x ∈ l, x.1 < 5 ∧ x.2.fast = false) ∧ (∀ x ∈ l, ∀ y ∈ l, x.2.sameShape y.2 = true) ∧
    (∀ x ∈ l, x.2.contrib < 4294967296) ∧ (contribution false).sameShape (contribution true) = false ∧
    fFp32.decode 0x7FC00000 = .nan ∧ fFp32.decode 0x3F800000 ≠ .nan := by decide
def redKey : RedKey := { tag := 5, dstX := 0, dstY := 0, rtag := 1, chunk := 0 }
/-- A REDUCE packet on its way to (0, 0), poisoned, its flag as given. -/
def redF (c flag : Nat) : List Flit :=
  [{ hdr := .head { mcH with op := .reduce, poison := true, tag := 5, dstX := 0, dstY := 0, loc := 64, dx := true }, data := List.replicate 64 0 },
   { hdr := .follow { last := false, vn := 2, vc := 0, poison := true, age := 0, idx := 1 },
     data := setFlit set2 1 0 0 4 false false false 0 0 c 0 flag },
   { hdr := .follow { last := true, vn := 2, vc := 0, poison := true, age := 0, idx := 2 }, data := List.replicate 64 0 }]
theorem witness_ReductionRows_1 :
    let s := one { gladeP with rtrs := [(0, { buf := [(vkey 4 2 0, redF 1 0)] })] }
    ((s.pkg 0).waitingRed (s.env 0) ((s.pkg 0).rtrOf 0) (Port.num .bole)).map (fun x =>
      (x.2, ((s.pkg 0).readPacket (s.env 0) ((s.pkg 0).rtrOf 0) x.1 x.2 []).1)) = some (redF 1 0, redF 1 0) ∧
    3 ≤ (redF 1 0).length ∧
    pktPoison (redF 1 0) = true ∧ (redOf (redF 1 0)).map (fun x => x.1) = some redKey ∧
    ((s.pkg 0).rtr ((s.pkg 0).rtrOf 0)).combAt redKey = some 0 ∧
    (s.pkg 0).expected (s.env 0) 0 set2 0 0 = [4, 1] := by decide +kernel
theorem witness_ReductionRows_2 :
    let c (fast : Bool) : Comb := { key := redKey, expect := [4, 1], parts := [(4, contribution fast)] }
    let s (t : Nat) (fast : Bool) := one { gladeP with tk := { tickNum := t }, rtrs := [(0, { comb := [(63, some (c fast))] })] }
    (((s 1 true).pkg 0).rtr (((s 1 true).pkg 0).rtrOf 0)).comb.get none 63 = some (c true) ∧ (c true).fast = true ∧
    (c true).age ((s 1 true).pkg 0).tk.tickNum = 1 ∧ (c false).fast = false ∧ (c false).age ((s 2 false).pkg 0).tk.tickNum = 2 := by
  decide
theorem witness_ReductionRows_3 : ∀ x ∈ [(2, 0), (2, 0x5FFFF8), (1, 0)],
    let fs := redF x.1 x.2
    let s := rxS {} fs
    (((s.pkg 0).bole 0).ni.takeBy (fun h fs => decide (h.op = .reduce) && !isMack h fs)).map (fun y => (y.1, y.2.1)) =
      some (headOf fs, fs) ∧
    malformed .reduce fs = false ∧ pktPoison fs = true ∧ ((s.pkg 0).bole 0).ni.roots = [] ∧ (s.pkg 0).redOwner 0 redKey = none ∧
    (redOf fs).map (fun y => (y.2.acc, y.2.wide, y.2.contrib, y.2.set.size)) = some (false, false, x.1, 2) ∧
    (s.pkg 0).memOk 0 64 (redSize 4 false * 1) = true ∧ ctrWindow 0x5FFFF8 = none := by decide +kernel

/-! ### Chapters 11 and 12 -/

theorem witness_CheckValueEngineIsLinear :
    (5 : Nat) < 2 ^ ((({} : Cv).cfg) % 64 + 1) ∧ 4294967295 < 2 ^ ((({} : Cv).cfg) % 64 + 1) := by decide
def cvS (f : List (Nat × Nat × Nat)) : State := oneBole { runB with cv := { fifo := f, cfg := 0x3131F, expect := 1, due := true } }
theorem witness_CheckValueUnits_0 :
    let s := cvS (List.replicate 4 (0x44, 32, 0))
    (((s.pkg 0).cvOf (.bole 0)).fifo.length = 4 ∧ ((cvS []).pkg 0 |>.cvOf (.bole 0)).fifo.length < 4) ∧
    cvKind 0x0C = .param ∧ cvWidthOk 0x0C 32 = true := by decide
theorem witness_CheckValueUnits_1 :
    let s := cvS [(0x44, 32, 0)]
    let r := one { upP with rt := { linkUp := true } }
    (s.pkg 0).cvLive (.bole 0) = true ∧ ((s.pkg 0).bole 0).running = true ∧ cvIsReg 0x48 = true ∧ cvWidthOk 0x48 8 = true ∧
    cvWidthOk 0x48 16 = false ∧ (r.pkg 0).cvLive (.root 0) = true ∧ (r.pkg 0).rt.linkUp = true ∧
    ((s.pkg 0).cvOf (.bole 0)).fifo = (0x44, 32, 0) :: [] ∧ cvKind 0x44 = .close ∧ cvKind 0x44 ≠ .start := by decide
theorem witness_CheckValueUnits_2 :
    ((cvS [(0x44, 32, 0)]).pkg 0).live = true ∧
    cvKind 0x40 = .start ∧ cvKind 0x48 = .din8 ∧ cvKind 0x4C = .din16 ∧ cvKind 0x50 = .din32 ∧ cvKind 0x20 = .state ∧
    cvKind 0x54 = .alive ∧ cvKind 0 = .param ∧ cvKind 0x58 = .param ∧
    (let c := ((cvS []).pkg 0).cvOf (.bole 0)
     bitAt c.cfg 12 = true ∧ bitAt c.cfg 16 = true ∧ bitAt c.status 0 = false ∧ c.due = true ∧ bitAt c.cfg 17 = true ∧
     c.result ≠ c.expect % 2 ^ (c.cfg % 64 + 1)) ∧
    ({ watch := 6, cfg := 0x0700031F } : Cv).watch + 1 = bits ({ watch := 6, cfg := 0x0700031F } : Cv).cfg 31 24 := by decide
theorem witness_RedHeadsAreReleased :
    let sh : Shaper := { en := true, svc1 := { wheel := true, next := 0 } }
    svcOf 0 = some 0 ∧ svcOf 2 = some 1 ∧ (sh.svc 0).wheel = false ∧ ({} : Rates).good = true ∧
    ({ cir := 1024, pir := 1024, cbs := 32, pbs := 32 } : Rates).good = true ∧
    ceilDiv (32 * 65536) (min (rateOf 1024) (rateOf 1024)) ≤ 2048 ∧ sh.asOf ≤ 2048 ∧ (sh.colour 0 32 0 = .red) ∧
    (sh.svc 1).wheel = true ∧ (sh.svc 1).colour 32 16 = .green ∧ 16 + (32 * (sh.svc 1).spacing / 16 + 16) ≤ 160 := by decide
theorem witness_Shapers_1 :
    let sh : Shaper := { en := true, sub := ⟨65536, 65536⟩, svc0 := { bucket := ⟨0, 65536⟩ }, next0 := some (true, {}, 16) }
    ({} : Shaper).en = false ∧ svcOf 0 = some 0 ∧ (sh.svc 0).wheel = false ∧ sh.colour 0 1 0 = .yellow ∧
    ({ sh with svc0 := { bucket := ⟨65536, 65536⟩ } } : Shaper).colour 0 1 0 = .green ∧ sh.next0 = some (true, {}, 16) := by decide
theorem witness_Shapers_2 :
    let P := (one upP).pkg 0
    P.live = true ∧ ({ ((P.shaper (.ni 0)).cfg 0).2.1 with pir := 65536 } : Rates).good = true ∧
    16 ≤ ((P.shaper (.ni 0)).cfg 0).2.2 ∧ ((P.shaper (.ni 0)).cfg 0).2.2 ≤ 8191 ∧
    ({ ((P.shaper (.ni 0)).cfg 0).2.1 with pir := 1023 } : Rates).good = false ∧ (15 : BitVec 32).toNat % 8192 < 16 ∧
    16 ≤ (16 : BitVec 32).toNat % 8192 ∧ ((P.shaper (.link 3)).cfg 1).2.1.good = true ∧
    ({ P.stag.subRates (.ni 0) with cir := 1024 } : Rates).good = true ∧
    ({ ({ pir := 1024, cir := 0 } : Rates) with cir := 2048 } : Rates).good = false ∧
    (one { upP with rt := { bringup := true } } |>.pkg 0).rt.bringup = true ∧ (P.shaper (.ni 0)).en = false := by decide
theorem witness_Shapers_3 :
    let s := oneBole { runB with coll := { laneReady := [(7, [{ flits := [], group := 0, epoch := 0 }])] } }
    (s.pkg 0).up 0 = true ∧ (((s.pkg 0).bole 0).ni.q.get [] 2).length < 32 ∧ ((s.pkg 0).bole 0).coll.lane 7 ≠ [] := by decide
theorem witness_WatermarksAndReadsThatClear :
    let w : Wm := { hi := 32, lo := 31 }
    (w.hi ≠ 0 ∧ w.lo < w.hi ∧ w.level = false ∧ w.hi ≤ 32 ∧ 31 < w.hi) ∧ ({ w with level := true } : Wm).level = true ∧
    ((one upP).pkg 0).live = true ∧
    let s := oneBole { ni := { qmon := [(0, { wm := { event := true } })] } }
    ((s.pkg 0).mon (.inj 0 0)).wm.event = true ∧ ((s.pkg 0).mon (.inj 0 0)).wm.ie = false ∧
    bitAt (0x40000 : BitVec 32).toNat 17 = false ∧ bitAt (0x40000 : BitVec 32).toNat 18 = true ∧
    ((one gladeP).pkg 0).cvReach (.bole 0) = true := by decide

/-! ### Chapter 13 -/

/-- One package whose bole 0 runs, its coll part as given. -/
def collS (c : Coll) : State := one { gladeP with tk := { tickNum := 90 }, boles := [(0, { runB with coll := c })] }
def flagE : Eft := { eft0 with kind := 1, inbox := 2 }
/-- An EFT packet of one flit. -/
def eftPkt (f : Eft) : Flit := (mkPacket { hdW with op := .eft, vn := 3 } 1 (leBytes 16 f.value) []).headD { hdr := .head hdW, data := [] }
set_option maxRecDepth 100000 in
theorem witness_EftRows_1 : ∀ f ∈ [eft0, flagE, { eft0 with kind := 0 }, { eft0 with kind := 15 }],
    let s := one { gladeP with boles := [(0, { runB with ni := { ej := [(6, [eftPkt f])] } })] }
    s.boleUp 0 0 ∧ ((s.pkg 0).bole 0).ni.ej.get [] 6 = eftPkt f :: [] ∧ (eftPkt f).isLast = true ∧
    (eftPkt f).poison = false ∧ (match (eftPkt f).hdr with | .head h => h.op = .eft | _ => False) ∧
    Eft.ofValue (leNat ((eftPkt f).data.take 16)) = f ∧ (s.pkg 0).eftRoom 0 f = true := by
  intro f hf
  rcases List.mem_cons.mp hf with rfl | hf
  · exact ⟨⟨rfl, rfl⟩, rfl, rfl, rfl, rfl, by decide +kernel, by decide⟩
  rcases List.mem_cons.mp hf with rfl | hf
  · exact ⟨⟨rfl, rfl⟩, rfl, rfl, rfl, rfl, by decide +kernel, by decide⟩
  rcases List.mem_cons.mp hf with rfl | hf
  · exact ⟨⟨rfl, rfl⟩, rfl, rfl, rfl, rfl, by decide +kernel, by decide⟩
  rcases List.mem_cons.mp hf with rfl | hf
  · exact ⟨⟨rfl, rfl⟩, rfl, rfl, rfl, rfl, by decide +kernel, by decide⟩
  cases hf
theorem witness_EftRows_1_ecrc (f : Eft) : ecrcGood [eftPkt f] = true :=
  ecrcGood_mkPacket { hdW with op := .eft, vn := 3 } 1 (leBytes 16 f.value) [] (by decide)
theorem witness_EftRows_2 :
    let s := collS {}
    let full := collS { sendQ := List.replicate 16 eft0 }
    s.boleUp 0 0 ∧ ((s.pkg 0).bole 0).running = true ∧ ((s.pkg 0).glade 0).holds flagE.dstX flagE.dstY = true ∧
    ((s.pkg 0).bole 0).coll.sendQ.length < 16 ∧
    16 ≤ ((full.pkg 0).bole 0).coll.sendQ.length ∧ ((s.pkg 0).glade 0).holds 8 0 = false ∧
    ((s.pkg 0).bole 0).cause.leaf &&& 1 = 0 := ⟨⟨rfl, rfl⟩, by decide⟩
/-- An eft from the bole at (0, 0) to the one at (2, 0), in the west buffer of the router of bole 1. -/
theorem witness_EftRows_3 :
    let f := { eft0 with dstX := 2 }
    let s := one { upP with rtrs := [(upP.rtrOf 1, { tw := [(6, [f])] })] }
    let o := (s.pkg 0).twRoute (s.env 0) (upP.rtrOf 1) 3 0 f
    (s.pkg 0).live = true ∧ ((s.pkg 0).rtr (upP.rtrOf 1)).tw.get [] (2 * 3 + 0) = f :: [] ∧
    (match (s.pkg 0).hop (upP.rtrOf 1) 3 with | .rtr _ _ => true | _ => false) = true ∧
    (match (s.pkg 0).twHop (upP.rtrOf 1) o.1 with
      | .rtr r' p' => decide (r' ≠ upP.rtrOf 1 ∧ ((s.pkg 0).rtr r').twOff.get false (2 * p' + o.2) = false ∧
          (((s.pkg 0).rtr r').tw.get [] (2 * p' + o.2)).length < 8)
      | _ => false) = true ∧ ({ headerBad := true } : HopEvent).headerBad = true := by decide
theorem witness_EftRows_4 :
    let s := collS { arrived := [flagE], inbox := [(3, { q := [(flagE, 0)] })] }
    s.boleUp 0 0 ∧ ((s.pkg 0).bole 0).running = true ∧ ((s.pkg 0).bole 0).coll.arrived = flagE :: [] ∧
    (((s.pkg 0).bole 0).coll.inbox.get {} flagE.inbox).q.length < 64 ∧
    (((s.pkg 0).bole 0).coll.inbox.get {} 3).q = (flagE, 0) :: [] ∧ (((s.pkg 0).bole 0).coll.inbox.get {} 4).q = [] ∧
    (((s.pkg 0).bole 0).coll.inbox.get {} 3).mon.pushCyc ≠ some s.now :=
  ⟨⟨rfl, rfl⟩, by decide⟩
/-- COUNT 10 for three members: blocks of 4, 3 and 3. -/
theorem witness_CollectiveMembersAgree :
    let c : ChunkCtx := { o := { group := 0, lrec := padTo 64 [6, 0, 0, 0, 10], epoch := 1, launchNo := 1, started := true }
                          set := { set2 with nx := 3 }, me := 0, root := 0 }
    (0 < c.n ∧ c.o.n = 10 ∧ (List.range 3).map c.blockLen = [4, 3, 3] ∧ (List.range 3).map c.blockAt = [0, 4, 7]) ∧
    (({ loss := [2 ^ 63 + 100, 99, 100] } : Coll).lossFor 100 = some (100, false) ∧
      [2 ^ 63 + 100, 99, 100].Perm [100, 2 ^ 63 + 100, 99] ∧ (100 : Nat) + 8 ≤ 108 ∧ 107 < 100 + 8) := by decide
/-- A group of the members (0, 0) to (2, 0) with its root at (2, 0). -/
def grp3 : Group := { v := true, set := { set2 with nx := 3 }, rootI := 2, epoch := 5 }
def opW (bs : List Byte) : CollOp := { group := 0, lrec := padTo 64 bs, epoch := 5, launchNo := 1, started := true }
theorem witness_CollectiveEngine_1 : ∀ x ∈ [(2, 4), (4, 5), (6, 6), (3, 7)],
    let f := { eft0 with kind := x.1, epoch := x.2 }
    let s := collS { arrived := [f], groups := [(0, grp3)] }
    s.boleUp 0 0 ∧ ((s.pkg 0).bole 0).coll.arrived = f :: [] ∧ (((s.pkg 0).bole 0).coll.group f.group).epoch = 5 ∧
    ((s.pkg 0).bole 0).coll.opOf f.group = none := by
  intro x _; exact ⟨⟨rfl, rfl⟩, rfl, rfl, rfl⟩
theorem witness_CollectiveEngine_2 :
    let f := { eft0 with kind := 2, srcX := 0, dstX := 1, epoch := 5 }
    let o := opW []
    let s := one { gladeP with
      comm := { gladeP.comm with ni := [(1, ⟨0, 0, 8, 8, 5⟩)] }
      boles := [(1, { runB with coll := { arrived := [f], groups := [(0, grp3)], ops := [o] } })] }
    s.boleUp 0 1 ∧ ((s.pkg 0).bole 1).coll.arrived = f :: [] ∧ ((s.pkg 0).bole 1).coll.opOf f.group = some o ∧ o.group = f.group ∧
    o.opc = 0 ∧ o.epoch = f.epoch ∧ o.upSent = [] ∧ o.down = [] ∧ f.word = 0 ∧
    f.epoch = (((s.pkg 0).bole 1).coll.group f.group).epoch ∧
    (s.pkg 0).childrenOf (s.env 0) 1 (((s.pkg 0).bole 1).coll.group f.group) = [(f.srcX, f.srcY)] ∧
    (s.pkg 0).parentOf (s.env 0) 1 (((s.pkg 0).bole 1).coll.group f.group) ((s.pkg 0).here 1) = some (2, 0) ∧
    (s.pkg 0).tagOf 1 ≠ 0 := ⟨⟨rfl, rfl⟩, by decide +kernel⟩
/-- A SCALAR of one word of sum over uint32: DST 0x100, record at 0x200000; a count exchange; a barrier. -/
def twigOp (opc : Nat) (down : Tab (BitVec 64)) : CollOp :=
  { opW ([BitVec.ofNat 8 opc, 0, 0, 0, 8, 0, 0, 0, 0, 0, 0, 0, 0, 1] ++ List.replicate 28 0 ++ [32]) with upSent := [0], down := down }
theorem witness_CollectiveEngine_3 : ∀ x ∈ [(3, 0, 0, []), (5, 1, 0, []), (7, 2, 1, [(0, 9)])],
    let f := { eft0 with kind := x.1, word := x.2.2.1, epoch := 5 }
    let o := twigOp x.2.1 x.2.2.2
    let s := collS { arrived := [f], groups := [(0, grp3)], ops := [o] }
    (((s.pkg 0).bole 0).coll.arrived = f :: [] ∧ ((s.pkg 0).bole 0).coll.opOf f.group = some o ∧ o.group = f.group ∧
    o.epoch = f.epoch ∧ o.upSent.contains 0 = true ∧ o.notify = 0 ∧ o.record + 32 ≤ 0x600000 ∧ o.opc = x.2.1 ∧ o.n = 8 ∧
    f.epoch = (((s.pkg 0).bole 0).coll.group f.group).epoch ∧ o.dst + 16 ≤ o.record ∧
    (s.pkg 0).childrenOf (s.env 0) 0 (((s.pkg 0).bole 0).coll.group f.group) = [] ∧
    (s.pkg 0).subRuns (s.env 0) 0 (((s.pkg 0).bole 0).coll.group f.group) ((s.pkg 0).here 0) =
      [(((s.pkg 0).chunkCtx 0 o).me, ((s.pkg 0).chunkCtx 0 o).me)]) := by decide +kernel
theorem collS_memWf (c : Coll) : (collS c).memWf := by
  refine memWf_one _ ⟨fun k => ?_, rfl, rfl⟩
  match k with
  | 0 => rfl
  | k + 1 => rfl
/-- A launch record of a barrier with a deadline; one of an unknown operation. -/
def barrierRec (opc : Nat) : List Byte := BitVec.ofNat 8 opc :: List.replicate 25 0 ++ leBytes 6 140 ++ List.replicate 10 0 ++ [32, 0]
theorem witness_LaunchesChunksAndSheds_1 :
    let s := collS { groups := [(0, { grp3 with exec := true })] }
    let o (b : List Byte) : CollOp := { group := 0, lrec := padTo 64 b, epoch := 5, launchNo := 0, started := false }
    s.boleUp 0 0 ∧ ((s.pkg 0).bole 0).running = true ∧ fld (barrierRec 0) 1 1 % 64 = 0 ∧
    ((s.pkg 0).bole 0).coll.opOf 0 = none ∧ (((s.pkg 0).bole 0).coll.group 0).exec = true ∧
    (s.pkg 0).launchGood 0 (o (barrierRec 0)) = true ∧ (s.pkg 0).launchGood 0 (o (barrierRec 9)) = false ∧
    (o (barrierRec 9)).notify = 0 ∧ (o (barrierRec 9)).record + 32 ≤ 0x600000 := ⟨⟨rfl, rfl⟩, by decide +kernel⟩
theorem witness_LaunchesChunksAndSheds_2 :
    let w : CollOp := { opW [] with started := false }
    let s := collS { groups := [(0, grp3)], ops := [w] }
    let t := collS { groups := [(0, grp3)], ops := [opW []] }
    s.boleUp 0 0 ∧ ((s.pkg 0).bole 0).coll.laneHeld (0 : Fin 8).val = false ∧
    (((s.pkg 0).bole 0).coll.ops.find? fun o => !o.started && decide ((((s.pkg 0).bole 0).coll.group o.group).lane = (0 : Fin 8).val))
      = some w ∧ ((t.pkg 0).bole 0).coll.laneHeld (0 : Fin 8).val = true := ⟨⟨rfl, rfl⟩, by decide⟩
/-- 4096 elements of a VN2 operation, chunks of 4096 bytes, W = 1. -/
def vn2Op (opc : Nat) : CollOp :=
  opW ([BitVec.ofNat 8 opc, 0, 4, 0, 0, 16, 0, 0] ++ List.replicate 12 0 ++ [1, 1])
theorem witness_LaunchesChunksAndSheds_3 : ∀ opc ∈ [4, 7],
    let g3 := { grp3 with rootI := 0 }
    let s (n : Nat) := collS { groups := [(0, g3)], ops := [{ vn2Op opc with chunks := n }] }
    let o (n : Nat) : CollOp := { vn2Op opc with chunks := n }
    ∀ n ∈ [0, 1],
      (((s n).pkg 0).bole 0).coll.opOf 0 = some (o n) ∧ (o n).started = true ∧ ((((s n).pkg 0).bole 0).coll.group 0).exec = false ∧
      3 ≤ (o n).opc ∧ (o n).opc ≤ 7 ∧ (((s n).pkg 0).chunkCtx 0 (o n)).mine[(o n).chunks]? = some n ∧
      ((s n).pkg 0).mayStart 0 (((s n).pkg 0).chunkCtx 0 (o n)) n = decide (n = 0) := by decide +kernel
theorem witness_LaunchesChunksAndSheds_4 :
    let o := opW (barrierRec 0)
    let s (l : List Nat) := collS { groups := [(0, grp3)], ops := [o], loss := l }
    (s []).boleUp 0 0 ∧ (((s []).pkg 0).bole 0).coll.opOf 0 = some o ∧ o.group = 0 ∧ o.notify = 0 ∧ o.record + 32 ≤ 0x600000 ∧
    ((s []).pkg 0).tk.tickNum < shedTick o.deadline (((s []).pkg 0).collLoss 0 o) ∧
    ((s [90]).pkg 0).collLoss 0 o = some (90, false) ∧ ((s [90]).pkg 0).tk.tickNum = 90 ∧
    (let s := one { gladeP with tk := { tickNum := 98 }, boles := [(0, { runB with coll := { groups := [(0, grp3)], ops := [o], loss := [90] } })] }
     shedTick o.deadline ((s.pkg 0).collLoss 0 o) ≤ (s.pkg 0).tk.tickNum) := ⟨⟨rfl, rfl⟩, by decide⟩
theorem witness_CountersTriggersAndGroups_1 :
    let x : Trig := { v := true, ctr := 3, thresh := 1 }
    let s := collS { ctr := [(3, 1)], trig := [(0, x), (511, { x with thresh := 2 })] }
    let c := ((s.pkg 0).bole 0).coll
    s.boleUp 0 0 ∧ ((s.pkg 0).bole 0).running = true ∧ (c.fired = [] ∧ c.armedNow s.now = false) ∧
    ({ firedAt := 3, fired := [x] } : Coll).firedAt < 4 ∧ c.trigQ.length + c.fired.length + c.trig.length ≤ 32 ∧
    ((c.trig.get {} 0).v = true ∧ (c.trig.get {} 0).thresh ≤ c.ctr.get 0 (c.trig.get {} 0).ctr) ∧
    c.ctr.get 0 (c.trig.get {} 511).ctr < (c.trig.get {} 511).thresh := ⟨⟨rfl, rfl⟩, by decide⟩
/-- Whatever a descriptor holds, an action of each kind waits, and where the descriptor is good each clause applies. -/
theorem witness_CountersTriggersAndGroups_2 : ∀ a ∈ [0, 3, 5, 6],
    let x : Trig := { act := a }
    let s := collS { trigQ := [x] }
    s.boleUp 0 0 ∧ ((s.pkg 0).bole 0).coll.trigQ ++ ((s.pkg 0).bole 0).coll.fired = x :: [] ∧
    ((s.pkg 0).bole 0).coll.fired = [] ∧ (s.pkg 0).tagOf 0 ≠ 0 := by
  intro a _; exact ⟨⟨rfl, rfl⟩, rfl, rfl, (by decide : gladeP.tagOf 0 ≠ 0)⟩
theorem witness_CountersTriggersAndGroups_3 :
    let s := collS { ops := [opW []] }
    ((s.pkg 0).bole 0).coll.opOf (0 : Fin 64).val ≠ none ∧ ((s.pkg 0).bole 0).coll.opOf (1 : Fin 64).val = none ∧
    (one gladeP |>.pkg 0).bolesOfTag 5 = [0] ∧ (one gladeP |>.pkg 0).live = true := by decide +kernel

/-! ### Chapters 14 and 15 -/

/-- One package whose link 3 is as given. -/
def lkS (L : Link) : State := one { gladeP with links := [(3, L)] }
def lkU : Link := { train := .active, expSeq := 4095, nextSeq := 7, bad492 := 7 }
/-- A frame with a right FCRC. -/
def frOf (f : LinkFrame) : LinkFrame := { f with fcrc := f.crc }
theorem frOf_crc (f : LinkFrame) : (frOf f).fcrc = (frOf f).crc := rfl
/-- A data frame of SEQ 4095 that holds one head flit for this package. -/
def fr0 : LinkFrame :=
  { null := false, seq := 4095, ack := 0, onoff := 255, ctl := 0, cdata := 0, rsv := 0, fcrc := 0
    body := linkFlit { hdr := .head { hdW with srcX := 6, dstX := 6 }, data := List.replicate 64 0 } }
theorem witness_LinkFramesAreAcceptedInOrder_1 :
    let s := lkS lkU
    s.linkUp 0 3 ∧ (∀ f, (frOf f).fcrc = (frOf f).crc) ∧
    (frOf fr0).ctl < 4 ∧ (frOf fr0).rsv = 0 ∧ ¬(frOf { fr0 with rsv := 1 }).rsv = 0 ∧ (frOf fr0).null = false ∧
    (frOf fr0).seq = ((s.pkg 0).link 3).expSeq ∧ ((s.pkg 0).link 3).bad492 = 7 ∧ (frOf { fr0 with seq := 0 }).seq ≠ 4095 ∧
    (frOf { fr0 with null := true }).null = true :=
  ⟨⟨rfl, rfl⟩, frOf_crc, by decide, rfl, by decide, rfl, rfl, rfl, by decide, rfl⟩
theorem witness_LinkFramesAreAcceptedInOrder_2 :
    let b := parseBody 0 32 ([] ++ padTo 1016 (frOf fr0).body)
    b.bad = false ∧ (b.items = [.flit { hdr := .head { hdW with srcX := 6, dstX := 6 }, data := List.replicate 64 0 }]) ∧
    ((lkS lkU).pkg 0).ingressOk ((lkS lkU).env 0) 3 { hdW with srcX := 6, dstX := 6 } = true ∧
    (((lkS lkU).pkg 0).link 3).regionFree 0 ≠ 0 ∧ (parseBody 0 32 (padTo 1016 [4])).bad = true := by decide +kernel
/-- Frame SEQ n of the replay buffer. -/
def frN (n : Nat) : LinkFrame := { fr0 with seq := n }
/-- The body of such a frame holds no tick-sync eft; a link that keeps no stamp. -/
theorem witness_LinkFramesAreAcceptedInOrder_3 :
    let b := parseBody 0 32 ([] ++ padTo 1016 (frOf fr0).body)
    (b.items.all fun x => match x with | .flit f => !f.tickSync | .sched _ => false) = true ∧
    syncBegins 1016 lkU.asmItems = false ∧ lkU.syncSeqs = [] ∧
    (∀ f ∈ ({ out := [eft0] } : Lane).out, f.kind ≠ 9) ∧ eft0.kind ≠ 9 := by decide +kernel
theorem witness_LinkSendersHoldsAndLanes_0 :
    let L : Link := { lkU with replayPos := some 6, replayBuf := [frN 6], schedSeqs := [6] }
    let s := lkS L
    let w := schedS 0 entL 50 id {}
    (s.pkg 0).schedWaits (s.env 0) 3 = false ∧ (w.pkg 0).schedWaits (w.env 0) 12 = true ∧
    ((s.pkg 0).link 3).schedSeqs.contains (frN 6).seq = true ∧ ({} : Link).schedSeqs.contains (frN 6).seq = false := by decide
theorem witness_LinkSendersHoldsAndLanes_1 :
    let s := lkS { lkU with asm := [1], replayBuf := [frN 6] }
    let r := lkS { lkU with replayPos := some 6, replayBuf := [frN 6], replays := 8, replayAt := some 0, rtt := 0 }
    s.linkUp 0 3 ∧ ((s.pkg 0).link 3).replayPos = none ∧ ((s.pkg 0).link 3).asm ≠ [] ∧
    ((s.pkg 0).link 3).replayBuf.length < 256 ∧ (((lkS lkU).pkg 0).link 3).asm = [] ∧
    r.linkUp 0 3 ∧ ((r.pkg 0).link 3).replayBuf = frN 6 :: [] ∧ ((r.pkg 0).link 3).replayPos = some (frN 6).seq ∧
    ((∃ f ∈ ((r.pkg 0).link 3).replayBuf, f.seq = 6) ∧ ∀ a, ((r.pkg 0).link 3).replayAt = some a → a + 0 ≤ r.now) ∧
    8 ≤ ((r.pkg 0).link 3).replays :=
  ⟨⟨rfl, rfl⟩, rfl, by decide, by decide, rfl, ⟨rfl, rfl⟩, rfl, rfl,
    ⟨⟨frN 6, List.mem_cons_self, rfl⟩, fun a h => by cases h; decide⟩, by decide⟩
theorem witness_LinkSendersHoldsAndLanes_2 :
    let s := { lkS { lkU with hold := [(0, { until_ := some 12288, start := some 0, lastHid := some 1 })] } with now := 12288 }
    let h := ((s.pkg 0).link 3).hold.get ({} : HoldSt) (0 : Fin 4).val
    s.linkUp 0 3 ∧ (((0 : Fin 4) : Nat) ≠ 3) ∧ h.lastHid = some ((1 : Fin 4) : Nat) ∧ h.lastHid ≠ some ((2 : Fin 4) : Nat) ∧
    h.ignore ≤ s.now ∧ ((0 : Fin 256) : Nat) = 0 ∧ ((255 : Fin 256) : Nat) ≠ 0 ∧ h.until_ = some 12288 ∧ h.wait = 0 ∧
    h.start = some 0 ∧ 0 + 12288 ≤ s.now ∧ ((s.pkg 0).link 3).hold.get ({} : HoldSt) 1 = {} := ⟨⟨rfl, rfl⟩, by decide⟩
/-- A lane frame with a right LCRC. -/
def laneOf (f : LaneFrame) : LaneFrame := { f with lcrc := f.crc }
theorem laneOf_crc (f : LaneFrame) : (laneOf f).lcrc = (laneOf f).crc := rfl
def lane0 : LaneFrame := { kind := 1, seq := 31, ack := 0, onoff := 0, eft := eft0, eseq := 0, lcrc := 0 }
theorem witness_LinkSendersHoldsAndLanes_3 :
    let s := lkS { lkU with lane := { expSeq := 31, out := [eft0] } }
    let N := ((s.pkg 0).link 3).lane
    (∀ f, (laneOf f).lcrc = (laneOf f).crc) ∧
    (laneOf lane0).kind = 1 ∧ (laneOf lane0).seq = N.expSeq ∧ (laneOf { lane0 with seq := 0 }).seq ≠ N.expSeq ∧
    (N.rx.get [] ((s.pkg 0).laneVc 3 (laneOf lane0).eft)).length < 32 ∧
    N.out = eft0 :: [] ∧ N.wantReplay = false ∧ N.replayPos = none ∧ N.replayBuf.length < 24 :=
  ⟨laneOf_crc, rfl, rfl, by decide, by decide, rfl, rfl, rfl, by decide⟩
def idG : Ident := { stand := 0, px := 0, py := 7, link := 11, ver := 1, eseq := 6, turnaround := 100 }
theorem witness_LinkTraining :
    let s (L : Link) := lkS L
    let P := (s {}).pkg 0
    P.live = true ∧ (P.link 3).down = false ∧ (P.link 3).disable = false ∧ (P.link 3).train = .detect ∧
    P.farEnd ((s {}).env 0) 3 = identPlace idG ∧
    identPlace { idG with link := 10 } ≠ P.farEnd ((s {}).env 0) 3 ∧ (P.link 3).fast = false ∧ (P.link 3).miscabled = false ∧
    P.linkInter ((s {}).env 0) 3 = false ∧ 1696 < 2047 ∧ (900 + 100 + 2 * 65535 = 900 + idG.turnaround + 2 * 65535) ∧
    (let q := { one { upP with links := [(3, { train := .measure, partner := some idG })] } with stands := [(0, { h := 4 })] }
     (q.pkg 0).linkInter (q.env 0) 3 = true ∧ ((q.pkg 0).link 3).partner = some idG) ∧
    (let m := (s { train := .measure, okNext := true, partner := some idG, replayBuf := [frN 6] }).pkg 0
     (m.link 3).train = .measure ∧ (m.link 3).okNext = true ∧ (m.link 3).replayBuf.any (fun f => f.seq == idG.eseq) = true) ∧
    (({ fast := true, failFast := 3, failFull := 3 } : Link).down = false) := by decide
def ringU : Ring := { base := 0x10000, dbr := 0x20000, cq := 0x30000, en := true, st := .idle, tailSeen := 0 }
def fnU : Func := { bme := true, noGlade := false, rings := [(0, ringU)] }
/-- A package whose PF has one ring, the state otherwise as given. -/
def hostS (R : Ring) (rt : RootBlk) : State :=
  one { gladeP with rt := { rt with linkUp := true }, fns := [(0, { fnU with rings := [(0, R)] })] }
theorem witness_DoorbellsFetchesAndReads_1 :
    let s := hostS ringU {}
    let P := s.pkg 0
    s.fnUp 0 0 ∧ (P.ring 0 0).st = .idle ∧ (P.ring 0 0).recOut = false ∧ P.issues 0 = true ∧ P.readRoom 0 = true ∧
    P.rt.readWait = [] ∧ (((hostS { ringU with recOut := true } {}).pkg 0).ring 0 0).recOut = true ∧
    (P.ring 0 1).st = .disabled ∧ (P.fn 0).lock = false ∧ bitAt (0x106 : BitVec 32).toNat 8 = true ∧
    (P.ring 0 0).goodSetup ((0x106 : BitVec 32).toNat % 32) = true ∧
    (P.ring 0 0).goodSetup ((0x105 : BitVec 32).toNat % 32) = false ∧
    (let q := (hostS { ringU with st := .disabled } {}).pkg 0
     (q.ring 0 0).goodSetup 6 = true ∧ q.mapped 0 0 = true ∧ (q.ring 0 0).st = .disabled) := ⟨⟨rfl, rfl⟩, by decide +kernel⟩
/-- A package with one host read outstanding. -/
def readS (R : Ring) (w : ReadFor) : State := hostS R { reads := [{ tag := 9, fn := 0, addr := 0x20000, len := 64, what := w }] }
def desc (bs : List Byte) : Desc := { n := 0, bytes := padTo 64 bs }
theorem witness_DoorbellsFetchesAndReads_2 :
    let s := readS { ringU with recOut := true } (.record 0)
    let f := readS { ringU with st := .running, tailSeen := 3, fetchLen := 3 } (.fetch 0)
    let d := desc [1]
    let c := readS { ringU with st := .running, tailSeen := 1, exec := [d] } (.data 0 0 0)
    let x (w : ReadFor) : HostRead := { tag := 9, fn := 0, addr := 0x20000, len := 64, what := w }
    s.fnUp 0 0 ∧ (s.pkg 0).readOf 0 (.record 0) = some (x (.record 0)) ∧ ((s.pkg 0).ring 0 0).st = .idle ∧
    (~~~(64 : BitVec 32) = ~~~64 ∧ subMod (2 ^ 32) (64 : BitVec 32).toNat 0 ≤ 2 ^ 6 ∧
      2 ^ 6 < subMod (2 ^ 32) (65 : BitVec 32).toNat 0) ∧
    (f.pkg 0).readOf 0 (.fetch 0) = some (x (.fetch 0)) ∧ ((f.pkg 0).ring 0 0).exec.length ≤ 8 ∧
    (c.pkg 0).readTagged 9 = some (x (.data 0 d.n 0)) ∧ ((c.pkg 0).ring 0 0).exec = [d] ∧ (c.pkg 0).rt.readWait = [] ∧
    (c.pkg 0).readTagged 8 = none := ⟨⟨rfl, rfl⟩, by decide +kernel⟩
/-- A package whose PF executes the one descriptor d, bole 0 as given. -/
def descS (d : Desc) (B : Bole) : State :=
  one { gladeP with tok := { bringup := false }, rt := { linkUp := true }, boles := [(0, B)]
                    fns := [(0, { fnU with rings := [(0, { ringU with st := .running, tailSeen := 1, exec := [d] })] })] }
theorem soleDesc_descS (d : Desc) (B : Bole) (h : d.left = 0 ∧ d.status = 0) : (descS d B).soleDesc 0 0 0 d :=
  ⟨⟨rfl, rfl⟩, rfl, rfl, rfl, h.1, h.2⟩
theorem descS_memWf (d : Desc) (B : Bole) (h : B.leaf.mem.wf = true) : (descS d B).memWf := by
  refine memWf_one _ ⟨fun k => ?_, rfl, rfl⟩
  match k with
  | 0 => exact h
  | k + 1 => rfl
/-- A descriptor: opcode, flags, host address, X, Y and location, length and byte 28 (Table 15.7). -/
def mkDesc (op loc len b28 : Nat) (more : List Byte) : Desc :=
  desc ([BitVec.ofNat 8 op] ++ List.replicate 7 0 ++ leBytes 8 0x40000 ++ leBytes 8 loc ++ leBytes 4 len ++ [BitVec.ofNat 8 b28] ++
    List.replicate 3 0 ++ more)
theorem witness_DescriptorsAreCarriedOut_1 : ∀ op ∈ List.range 10 ++ [15],
    (let d := mkDesc op 64 64 0 [1]
     d.op = op ∧ d.bole = 0 ∧ d.loc = 64 ∧ d.len = 64 ∧ d.left = 0 ∧ d.status = 0) ∧ runB.leaf.mem.wf = true := by
  decide +kernel
theorem witness_DescriptorsAreCarriedOut_2 :
    let s (d : Desc) (B : Bole) := (descS d B).pkg 0
    (s (mkDesc 1 64 64 0 []) runB).up (mkDesc 1 64 64 0 []).bole = true ∧
    (s (mkDesc 1 64 64 0 []) { st := .off }).up (mkDesc 1 64 64 0 []).bole = false ∧
    (let d := { mkDesc 1 0x5FFFC0 64 0 [] with got := [(0, List.replicate 64 7, false)] }
     d.got = [(0, List.replicate 64 7, false)] ∧ d.loc + 64 = 0x600000) ∧
    (let d := mkDesc 2 64 64 0 []
     splitAll ((s d runB).fn 0).mps d.haddr d.len = [(d.haddr, d.len)] ∧ (s d runB).memOk d.bole d.loc d.len = true) := by
  decide +kernel
/-- A SCHED_LOAD image of one entry: a header whose ENTRIES is 1, and the entry. -/
def image1 : List Byte := leBytes 8 (2 ^ 16 * 1) ++ List.replicate 8 0 ++ leBytes 8 0
theorem witness_DescriptorsAreCarriedOut_3 :
    let d (b len : Nat) : Desc := { mkDesc 4 0 len b [] with got := [(0, image1, false)] }
    let h := SchedHdr.ofValue (fld (d 0 24).image 0 8)
    h.entries = 1 ∧ (d 2 24).b28 = 2 ∧ (d 0 16).len ≠ 16 + 8 * h.entries ∧ (d 0 24).len = 16 + 8 * h.entries ∧ h.entries ≤ bankLen 1 ∧
    ({} : Sched).bankActive 1 = false ∧ ({ active := 3 } : Sched).bankActive 1 = true ∧
    (let w (j v : Nat) := mkDesc 5 (0x01008000 + 8 * j) 0 1 (leBytes 4 v)
     (w 255 9).b28 = 1 ∧ (w 255 9).loc = 0x01008000 + 8 * 255 ∧ ((descS (w 0 1) runB).pkg 0).comm.oos.getLsbD (w 0 1).bole = false) := by
  decide +kernel
theorem witness_DescriptorsAreCarriedOut_4 :
    let s (d : Desc) (B : Bole) := (descS d B).pkg 0
    let d9 (v : Nat) := mkDesc 9 0 0 3 (leBytes 4 v)
    let B : Bole := { runB with coll := { ctr := [(3, 4)] } }
    fld (d9 4).bytes 32 4 ≤ ((s (d9 4) B).bole (d9 4).bole).coll.ctr.get 0 (d9 4).b28 ∧
    ((s (d9 5) B).bole (d9 5).bole).coll.ctr.get 0 (d9 5).b28 < fld (d9 5).bytes 32 4 ∧
    (let d8 := mkDesc 8 64 0 1 []
     d8.b28 = 1 ∧ (mkDesc 8 64 0 0 []).b28 = 0 ∧ (s d8 B).up d8.bole = true ∧ (s d8 B).tok.bringup = false ∧
     (one upP |>.pkg 0).tok.bringup = true) ∧
    ((s (desc [15]) B).fn 0).abort.state ≠ 1 ∧ (({ abort := { state := 1 } } : Func).abort.state = 1) := by decide +kernel
/-- A COLL_LAUNCH of the VF of bole 0's glade, whose lane is held by the operation of another group. -/
theorem witness_DescriptorsAreCarriedOut_5 :
    let rc : List Byte := [3, 0, 4, 0] ++ leBytes 4 64 ++ leBytes 4 0 ++ leBytes 4 0x1000 ++ List.replicate 24 0 ++ [0, 0, 32]
    let d : Desc := { mkDesc 7 0 0 0 [] with got := [(0, padTo 64 rc, false)] }
    let grp : Group := { v := true, set := { set2 with nx := 1 } }
    let B : Bole := { runB with coll := { groups := [(0, grp), (1, grp)], ops := [{ opW [] with group := 1 }] } }
    let s := one { gladeP with boles := [(0, B)], fns := [(1, fnU)] }
    let o : CollOp := { group := 0, lrec := padTo 64 d.image, epoch := 0, launchNo := 0, started := false }
    fld d.image 1 1 % 64 = 0 ∧ (s.pkg 0).groupMembers 1 (fun k => ((s.pkg 0).bole k).coll.group 0) = [0] ∧
    ((s.pkg 0).bole 0).coll.opOf 0 = none ∧ (((s.pkg 0).bole 0).coll.group 0).exec = false ∧
    (s.pkg 0).launchGood 0 o = true ∧ ((s.pkg 0).bole 0).coll.laneHeld 0 = true ∧ ((s.pkg 0).bole 0).coll.laneWaiting 0 < 4 := by
  decide +kernel
theorem witness_DescriptorsAreCarriedOut_6 :
    let d := { desc [0, 1] with n := 0 }
    let s := hostS { ringU with st := .running, tailSeen := 1, ended := [d] } {}
    s.fnUp 0 0 ∧ ((s.pkg 0).ring 0 0).st = .running ∧ (s.pkg 0).issues 0 = true ∧ ((s.pkg 0).ring 0 0).next = some d ∧
    bitAt d.flags 0 = true := ⟨⟨rfl, rfl⟩, by decide⟩

/-! ### Chapters 16 to 18 -/

/-- A package whose first VF serves the glade of bole 0. -/
def vfS (F : Func) (tk : TickBlk) : State := one { gladeP with rt := { linkUp := true }, tk := tk, fns := [(1, F)] }
def abortF : Func := { fnU with abort := { state := 1, startTick := 2, startPeriod := 20, startAt := 0 } }
theorem witness_AbortsAndRingResets_1 :
    let s := vfS fnU {}
    s.fnUp 0 1 ∧ ((s.pkg 0).fn 1).abort.state ≠ 1 ∧ (s.pkg 0).scope 1 = [0] ∧ (s.pkg 0).tagOfFn 1 = 5 ∧
    ((s.pkg 0).fn 1).master = true ∧ ((vfS abortF {}).pkg 0 |>.fn 1).abort.state = 1 ∧
    ((vfS {} {}).pkg 0 |>.fn 1).master = false ∧ ((vfS abortF {}).pkg 0 |>.fn 1).abort.tooLong 0 = false ∧
    (abortF.abort.tooLong 100000000 = true) ∧ ((s.pkg 0).bole 0).st = .up ∧ (1 : BitVec 64).getLsbD 0 = true ∧
    (s.pkg 0).live = true := ⟨⟨rfl, rfl⟩, by decide +kernel⟩
theorem witness_AbortsAndRingResets_2 :
    let R : Ring := { ringU with st := .stopped, rstDue := true, ended := [desc []] }
    let s := hostS R {}
    let q := readS { ringU with st := .stopped, rstOut := true } (.resetRecord 0)
    let a := one { gladeP with rt := { linkUp := true, reads := [{ tag := 9, fn := 1, addr := 0x20000, len := 16, what := .resetRecord 0 }] }
                               fns := [(1, { abortF with abort := { abortF.abort with collDone := true }
                                                         rings := [(0, { ringU with st := .stopped, rstOut := true })] })] }
    s.fnUp 0 0 ∧ ((s.pkg 0).ring 0 0).st = .stopped ∧ ((s.pkg 0).ring 0 0).rstDue = true ∧ (s.pkg 0).issues 0 = true ∧
    (s.pkg 0).readRoom 0 = true ∧ (s.pkg 0).rt.readWait = [] ∧ ((s.pkg 0).ring 0 0).ended = [desc []] ∧
    ((s.pkg 0).ring 0 0).head = (desc []).n ∧ ((hostS ringU {}).pkg 0 |>.ring 0 0).st ≠ .stopped ∧
    (({ fnU with bme := false } : Func).master = false) ∧
    ((q.pkg 0).readOf 0 (.resetRecord 0)).isSome = true ∧ ((q.pkg 0).fn 0).master = true ∧ ((q.pkg 0).ring 0 0).rstOut = true ∧
    ((a.pkg 0).readOf 1 (.resetRecord 0)).isSome = true ∧ ((a.pkg 0).fn 1).abort.collDone = true ∧
    (∀ q : RingIx, q ≠ 0 → ((a.pkg 0).ring 1 q).st ≠ .stopped) ∧
    (({ R with rstAt := some 0, rstPeriod := 20 } : Ring).rstAt = some 0 ∧ 0 + 1500 * 20 ≤ 30000) ∧
    (((hostS ringU {}).pkg 0).ring 0 0).rstOut = false := ⟨⟨rfl, rfl⟩, by decide +kernel⟩
theorem witness_AbortsAndRingResets_3 :
    let s (t : Nat) (rst : Bool) := (vfS { abortF with inReset := rst } { tickNum := t }).pkg 0
    (s 4 false).live = true ∧ ((s 4 false).fn 1).abort.state = 1 ∧ ((s 4 false).fn 1).abort.collDone = false ∧
    (s 4 false).tk.tickNum < ((s 4 false).fn 1).abort.startTick + 3 ∧
    ((s 5 false).fn 1).abort.startTick + 3 ≤ (s 5 false).tk.tickNum ∧ ((s 5 true).fn 1).inReset = true := by decide
theorem witness_ResetsClearAndKeep :
    let s := vfS fnU {}
    (s.pkg 0).powered = true ∧ (s.pkg 0).live = true ∧
    (∀ f : FnIx, ((s.pkg 0).fn f).inReset = false ∧ ((s.pkg 0).fn f).abort.state ≠ 1) ∧
    (let P : Package := { upP with repair := upP.repairOf }
     P.repairOf = P.repair ∧ P.live = true) ∧ (s.pkg 0).scope 2 = [1] ∧ (s.pkg 0).scope 3 = [] ∧ (s.pkg 0).up 0 = true ∧ (s.pkg 0).tagOf 0 ≠ 0 ∧
    (let r := one { upP with fns := [(1, { abortF with inReset := true, flrStart := some 0 })] }
     ((r.pkg 0).fn 1).inReset = true ∧ ((r.pkg 0).fn 1).flrStart = some 0 ∧ r.now < 0 + 2700000 ∧
       0 + 2700000 ≤ ({ r with now := 2700000 } : State).now) := by decide +kernel
theorem witness_MasteringAndVectors :
    let m : Msix := { enable := true, vmask := false }
    let s (F : Func) := vfS { F with funcEn := 31, sumEn := 255, funcLeaf := 31 } {}
    let F := { fnU with msix := m }
    (s F).fnUp 0 1 ∧ ((s F).pkg 0).vecPending 1 = true ∧ (((s F).pkg 0).fn 1).arm = true ∧ (((s F).pkg 0).fn 1).msix.enable = true ∧
    (((s F).pkg 0).fn 1).d3 = false ∧ (((s F).pkg 0).fn 1).msix.fmask = false ∧ (((s F).pkg 0).fn 1).msix.vmask = false ∧
    (((s F).pkg 0).fn 1).master = true ∧ ((vfS fnU {}).pkg 0).vecPending 1 = false ∧
    ({ fnU with bme := false } : Func).master = false ∧ ({ m with fmask := true } : Msix).fmask = true ∧
    ((vfS fnU {}).pkg 0).fnOf 0 = 1 ∧ ((s F).pkg 0).up 0 = true ∧ (((s F).pkg 0).bole 0).running = true := ⟨⟨rfl, rfl⟩, by decide +kernel⟩
/-- A glade of four boles on package 0 of an empty Grove. -/
def spec0 : GladeSpec :=
  { tag := 1, x0 := 0, y0 := 0, w := 2, h := 2, cir := 0, pir := 65536, cbs := 32, pbs := 32
    on := [{ pkg := 0, vf := 1, westBase := 0, westSize := 1, eastBase := 0, eastSize := 0, budget := 0, rings := [(1, 0)] }] }
def bareS (P : Package) (r : Rootstock) : State := { pkgs := [(0, P)], stands := [(0, r)] }
def bareP : Package := { upP with comm := { engMap := [(0, ⟨0, 0, true⟩)] } }
theorem witness_Replants_1 :
    let s := bareS bareP {}
    let q := bareS bareP { replant := some { gen := 1, removed := [], created := [], step := 2, commitTick := 0 }, sledOut := 1 }
    s.leadOf 0 = 0 ∧ (s.stand 0).replant = none ∧ (s.stand 0).waiting = [] ∧ (q.stand 0).replant ≠ none ∧ 0 < (s.stand 0).period ∧
    s.createsOk 0 (s.stand 0).glades (fun key => (s.pkg key).comm) [{ spec0 with w := 3 }] = false ∧
    (s.stand 0).sledOut.getLsbD 0 = false ∧ s.sledTags 0 0 = [] ∧ (q.stand 0).sledOut.getLsbD 0 = true ∧
    (∀ g ∈ (s.stand 0).glades, g.tag ≠ 1) ∧ (∀ tag ∈ [1], ∃ g ∈ (bareS bareP { glades := [spec0] } |>.stand 0).glades, g.tag = tag) := by
  decide +kernel
theorem witness_Replants_2 :
    let s := bareS bareP {}
    s.createsOk 0 (s.stand 0).glades (fun key => (s.pkg key).comm) [spec0] = true := by decide +kernel
theorem witness_Replants_3 :
    let P (tick stagGen : Nat) : Package :=
      { bareP with tk := { tickNum := tick }, rt := { commitAt := some 2, commitTick := 100, commitGen := 1 }, stag := { gen := stagGen } }
    (P 99 1).live = true ∧ (P 99 1).tk.tickNum < (P 99 1).rt.commitTick ∧ bareP.rt.commitAt = none ∧
    ((P 100 1).rt.commitAt = some 2 ∧ (P 100 1).rt.commitTick ≤ (P 100 1).tk.tickNum ∧
      (P 100 1).stag.gen = (P 100 1).rt.commitGen ∧ 2 + 2 < (P 100 1).rt.commitTick) ∧
    (P 100 0).stag.gen ≠ (P 100 0).rt.commitGen ∧
    (let s (n : Nat) := bareS bareP { replant := some { gen := 1, removed := [], created := [], step := n, commitTick := 0 } }
     (s 2).leadOf (0 : StandIx).val = (0 : StandIx).val ∧
       ((s 5).stand 0).replant = some { gen := 1, removed := [], created := [], step := 5, commitTick := 0 } ∧
       (s 5).groveLive 0 = [0] ∧ ((s 5).pkg 0).comm.gen ≠ 1) := by decide +kernel
theorem witness_BringUpAndStands_1 :
    let r : Rootstock := {}
    let r1 : Rootstock := { sledOn := 1, sledOut := 2 }
    (r.thermalHold = false ∧ r.sledOn.getLsbD 0 = false ∧ r.sledOut.getLsbD 0 = false) ∧ r1.sledOn.getLsbD 0 = true ∧
    r1.sledOut.getLsbD 1 = true ∧
    (let P : Package := { powered := true, reset := .cold, rt := { posV := true } }
     P.powered = true ∧ P.reset ≠ .none ∧ P.rt.posV = true ∧ P.failed = false) ∧
    (let P : Package := { upP with tok := { firstTick := 9 }, tk := { tickNum := 9 } }
     P.live = true ∧ P.tok.bringup = true ∧ P.tok.firstTick ≠ 0 ∧ P.tok.firstTick ≤ P.tk.tickNum) ∧
    (bits (0x801 : BitVec 32).toNat 1 0 ≠ 0 ∧ bits (0x801 : BitVec 32).toNat 11 8 < 9 ∧ 9 ≤ bits (0x901 : BitVec 32).toNat 11 8) := by
  decide
theorem witness_BringUpAndStands_2 :
    let s := bareS bareP {}
    let g := bareS bareP { glades := [spec0] }
    (∃ st ∈ g.joining 2 2, (g.stand st).glades ≠ [] ∨ (g.stand st).replant ≠ none) ∧
    (∀ st ∈ s.joining 2 2, (s.stand st).glades = [] ∧ (s.stand st).replant = none) ∧
    (∀ st ∈ s.joining 2 2, inShape 2 2 st = true → (s.stand st).shortfall 2 2 (s.stand st).hostAllowance (s.stand st).period = 0) ∧
    (s.stand 0).shortfall 1 1 0 20 = 0 ∧ (s.stand 0).shortfall 1 1 65535 20 ≠ 0 := by decide +kernel
theorem witness_AccessesByPath :
    let s := hostS { ringU with st := .disabled } {}
    64 < 60 + (List.replicate 8 (0 : Byte)).length ∧ s.fnUp 0 0 ∧ (s.pkg 0).rt.linkUp = true ∧ ((s.pkg 0).fn 0).lock = false ∧
    (({ fnU with lock := true } : Func).lock = true ∧ fnOpen 0x1018 = false) ∧
    (regAt (.pcie 0) 0x1018).roLow = false ∧ (regAt (.pcie 0) 0x18).roLow = true ∧
    (s.pkg 0).blockCode (regAt (.pcie 0) 0x18) = none ∧ (s.pkg 0).blockCode (regAt (.pcie 0) (0x18 + 4)) = none :=
  ⟨by decide, ⟨rfl, rfl⟩, by decide +kernel⟩

theorem witness_AccessesByPath_more :
    (cvAt (.pcie 0) 0xF030 = some (.root 0, 0x30) ∧ ((one ovfP).pkg 0).cvReach (.root 0) = true) ∧
    ((List.range 17).map fun f => ((one ovfP).pkg 0).comm.budget.get 0 f).sum ≤ leNat [64, 0, 0, 0] % 65536 ∧
    ((List.range 17).map fun f => ((one ovfP).pkg 0).stag.budget.get 0 f).sum ≤ leNat [64, 0, 0, 0] % 65536 ∧
    leNat [63, 0, 0, 0] % 65536 < ((List.range 17).map fun f => ((one ovfP).pkg 0).comm.budget.get 0 f).sum ∧
    cvAt (.pcie 0) 0x1018 = none ∧ (regAt (.pcie 0) 0x1018).roLow = false := by decide +kernel
theorem witness_BringUpAndStands_3 :
    let P : Package := { powered := true, reset := .cold, rt := { pwrAt := 7 } }
    P.powered = true ∧ P.reset ≠ .none ∧ P.failed = false ∧ P.rt.pwrAt + 37500000 < 37500008 ∧ P.rt.pwrAt + 37500000 ≥ 37500007 := by
  decide
/-- A transfer of the PF to boles of no glade may go; one of a VF into another glade's allocation may not. -/
theorem witness_DescriptorsAreCarriedOut_7 :
    let d := mkDesc 3 64 64 0 []
    (descS d runB |>.pkg 0).rootRefused 0 d = false ∧
    (let e := mkDesc 3 0x40000000 64 0 []
     (descS e runB |>.pkg 0).rootRefused 0 e = true ∧ (descS e runB |>.pkg 0).up e.bole = true) := by decide +kernel
theorem witness_ResetsClearAndKeep_more :
    let d := mkDesc 1 64 64 0 []
    d ∈ ((descS d runB |>.pkg 0).ring 0 0).exec ∧ d.bole = 0 ∧ d.op ∈ [1, 2, 3, 4, 5, 8, 9] := by decide +kernel

/-! ### The spec's worked examples -/

/-- Chapter 01, locating a bole: column 4 skips row 0, so logical row 1 is physical row 2 and logical row 7 the spare. -/
def cutP : Package := { upP with repair := { spare := [(4, 0)] }, rt := { stand := 20, px := 5, py := 0 } }
theorem test_locate_bole : cutP.physRow 4 1 = 2 ∧ cutP.physRow 4 7 = 8 ∧ localOf 300 129 = 12 ∧ cutP.boleX 12 = 300 ∧
    cutP.boleY 12 = 129 ∧ halfOf 12 = .east := by decide
/-- Chapter 03, where two addresses land. -/
theorem test_hashes : leafBank 0x00123440 = 23 ∧ leafRow 0x00123440 = 582 ∧ heartSlice 0x1234580 = 3 ∧ heartRow 0x1234580 = 9320 ∧
    regionOf 0 0x41234580 64 = .heart .west 0x1234580 := by decide
/-- Tables 2.6 and 2.7: issue ceiling, base, cap and pool of a Stand alone and of one in an 8 x 4 Grove, in 1/16 token. -/
theorem test_stand_budget :
    ((({ fans := 900, bankCapSet := 256 } : Rootstock).compute 64).issue = 16 * 20400 ∧
      (({ fans := 900, bankCapSet := 256 } : Rootstock).compute 64).base = 16 * 290 ∧
      (({ fans := 900, bankCapSet := 256 } : Rootstock).compute 64).cap = 16 * 16 ∧
      (({ fans := 900, bankCapSet := 256 } : Rootstock).compute 64).pool = 16 * 816) ∧
    ((({ fans := 520, bankCapSet := 256, w := 8, h := 4 } : Rootstock).compute 64).cap = 138 ∧
      (({ fans := 900, bankCapSet := 256, w := 8, h := 4 } : Rootstock).compute 64).base = 4588 ∧
      (({ fans := 900, bankCapSet := 256, w := 8, h := 4 } : Rootstock).compute 64).pool = 0) ∧
    fanWatts 25 = 520 ∧ fanWatts 30 = 710 ∧ fanWatts 35 = 900 := by decide +kernel
/-- Table 2.8: windows n and n + 2, and the award of window n + 2. -/
def tokW (bank award : Nat) : TokenBlk := { bringup := false, base := 4640, cap := 256, bank := bank, award := award }
theorem test_token_books :
    ((tokW 0 0).select 20).step = 0 ∧ ((tokW 256 0).select 20).step = 3 ∧ ((tokW 96 1024).select 20).step = 12 ∧
    (((tokW 0 0).close 7 20 (16 * 250)).1.report.map fun r => (r.bankOut, r.returned, r.request)) = some (256, 384, 1024) ∧
    (((tokW 96 1024).close 9 20 (16 * 336)).1.report.map fun r => (r.bankOut, r.returned)) = some (256, 128) ∧
    poolDivide (16 * 816) ((0, 16 * 64) :: (List.range 11).map fun i => (i + 1, 16 * 80)) =
      (0, 16 * 64) :: (List.range 11).map fun i => (i + 1, 16 * 68 + 5) := by decide +kernel
/-- Chapter 05, one unit in each format. -/
theorem test_sparse_records :
    blockRecord [2, 3, 9, 62] 0xA30 = [0x0C, 2, 0, 0, 0, 0, 0, 0x40, 0x30, 0x0A, 0, 0, 4, 0, 0, 0] ∧
    setBits 0x400000000000020C = [2, 3, 9, 62] ∧ (two4Cols 0x444444444444484D).take 6 = [1, 3, 4, 5, 8, 10] := by decide +kernel
/-- Chapter 06, one route in two glades: the directions and the hops of both legs. -/
theorem test_route : dirOf true 64 5 62 = true ∧ dirOf true 64 60 3 = false ∧ dirOf false 128 5 62 = false ∧
    ringDist 64 true 5 62 = 7 ∧ ringDist 64 false 60 3 = 7 := by decide
/-- Chapter 07, encoding a head header. -/
def hd79 : Head :=
  { ftype := .head, vn := 0, vc := 0, ord := true, poison := false, dx := true, dy := false, op := .write, age := 1, dstX := 62
    dstY := 3, srcX := 5, srcY := 60, tag := 0x123, alive := 7, loc := 0x12000, ecrc := 0 }
theorem test_head_header : hd79.value % 2 ^ 64 = 0x02467805031F22A0 ∧ leBytes 14 hd79.value =
      [0xA0, 0x22, 0x1F, 3, 5, 0x78, 0x46, 2, 7, 0, 0, 0x20, 1, 0] ∧ ({ hd79 with vc := 1 } : Head).value % 256 = 0xB0 ∧
    ({ last := true, vn := 0, vc := 0, poison := false, age := 1, idx := 1 } : Follow).value = 0xA002 := by decide
/-- Chapter 08: the last paced slot of the transfer is cycle 1,582, and 1,583 is skipped. -/
theorem test_paced_slots :
    let x : SEntry := { v := true, inp := 4, out := 1, win := 0, start := 48, len := 1536, slack := 512, stream := 5, pace := 2 }
    x.slotIx 47 = none ∧ x.slotIx 48 = some 0 ∧ x.slotIx 1582 = some 1471 ∧ x.slotIx 1583 = none ∧ x.reserves 2095 = true ∧
    x.reserves 2096 = false := by decide
/-- Chapter 09: Table 9.6's quadrants, and the branches of the packet (+, -) at (4, 5), (4, 3) and (4, 1). -/
def set96 : McSet := { x0 := 0, y0 := 1, lsx := 1, lsy := 1, nx := 4, ny := 3 }
theorem test_multicast_tree :
    let P : Package := { upP with comm := { ni := [(42, ⟨0, 0, 8, 8, 5⟩)] } }
    let e := (one P).env 0
    let h : Head := { hd with op := .mcast, dx := false, dy := true, dstX := 4, dstY := 4, srcX := 2, srcY := 5 }
    P.quads e 42 set96 = [⟨false, false, 4, 0⟩, ⟨false, true, 4, 4⟩, ⟨true, false, 2, 0⟩, ⟨true, true, 2, 4⟩] ∧
    P.branches e 44 3 h set96 = [0, 1] ∧ P.branches e 28 2 h set96 = [4, 0] ∧ P.branches e 12 2 h set96 = [4] ∧ mcCount 256 = 9 := by
  decide
/-- Chapter 09, one sum three ways: 1.0 and three times 2^-8 in BF16. -/
theorem test_bf16_sum :
    let s := fBf16.add
    s 0x3B80 0x3B80 = 0x3C00 ∧ s (s 0x3B80 0x3F80) 0x3C00 = 0x3F81 ∧ s (s 0x3C00 0x3B80) 0x3F80 = 0x3F82 ∧
    narrow 1 ((fFp32.add (fFp32.add (widen 1 0x3B80) (widen 1 0x3F80)) (fFp32.add (widen 1 0x3B80) (widen 1 0x3B80)))) = 0x3F82 := by
  decide +kernel
/-- Chapter 10: the atomic whose result is lost is carried out once; Table 10.8's go-back. -/
theorem test_atomic_and_go_back :
    let d : Dedup := { srcX := 5, srcY := 60, tag := 1, h := 0x100, done := BitVec.allOnes 64, last := 0 }
    ({ h := hd, fs := [], p := [1, 1, 0, 0, 0, 0, 0, 0, 5] } : Req).newValue 0x11 0 = 0x16 ∧
    d.classOf 0x102 = .ahead ∧ d.ordOk 0x102 = false ∧ d.classOf 0x101 = .ahead ∧ d.ordOk 0x101 = true ∧
    (d.carried 0x101 0 0 none).h = 0x101 ∧ (d.carried 0x101 0 0 none).ordOk 0x102 = true ∧
    (d.carried 0x101 0 0 none).classOf 0x101 = .duplicate := by decide +kernel
/-- Table 11.5: every configuration gives the catalogue's check value; R161's and R350's codes as well. -/
def nine : List Nat := [0x31, 0x32, 0x33, 0x34, 0x35, 0x36, 0x37, 0x38, 0x39]
def cvRun (cfg poly init xorout : Nat) : Nat :=
  ((({ cfg := cfg, poly := poly, init := init, xorout := xorout } : Cv).start).feedAll nine).result
theorem test_check_values : cvRun 7 7 0 0 = 0xF4 ∧ cvRun 0x30F 0x8005 0 0 = 0xBB3D ∧ cvRun 15 0x1021 0xFFFF 0 = 0x29B1 ∧
    cvRun 0x31F 0x04C11DB7 0xFFFFFFFF 0xFFFFFFFF = 0xCBF43926 ∧ cvRun 0x31F 0x1EDC6F41 0xFFFFFFFF 0xFFFFFFFF = 0xE3069283 ∧
    cvRun 0x33F 0x42F0E1EBA9EA3693 0xFFFFFFFFFFFFFFFF 0xFFFFFFFFFFFFFFFF = 0x995DC9BBDF1939FA ∧
    crc16 (nine.map (BitVec.ofNat 8)) = 0x29B1 ∧ crc32c (nine.map (BitVec.ofNat 8)) = 0xE3069283 := by decide +kernel
/-- Chapter 11, the alive counter catching a repeat: after one CLOSE the check of 0x5A is 0xEA, no longer 0x81. -/
theorem test_alive_counter :
    let c := ({ cfg := 0x807, poly := 7, init := 0, xorout := 0 } : Cv).start
    let c1 := (c.data 1 0x5A).close.1
    (c.data 1 0x5A).result = 0x81 ∧ c1.alive = 1 ∧ c1.state = 0x15 ∧ (c1.data 1 0x5A).result = 0xEA := by decide +kernel
/-- Chapter 13, a FLAG with DATA 0x2A to inbox 2 of (62, 3). -/
theorem test_flag_eft :
    leBytes 16 ({ kind := 1, inbox := 2, dstX := 62, dstY := 3, srcX := 5, srcY := 60, group := 0, word := 0, rop := 0, fmt := 0
                  dx := true, dy := false, epoch := 0, data := 0x2A } : Eft).value =
      [0x21, 0x3E, 6, 0x0A, 0xF0, 0, 0, 1, 0x2A, 0, 0, 0, 0, 0, 0, 0] := by decide
/-- Table 14.11: HT 25 with HID 1 starts a hold of 200 ns at the next boundary, its copy is ignored, HT 0 ends it, and a
further HT 0 and one for VN3 are counted. Table 14.9: LK_SKID of 511. -/
theorem test_holds :
    let a := ({} : Link).holdIn 0 25 1 1545
    let b := { a with hold := a.hold.upd {} 0 fun h => h.boundary 1551 }
    ((b.hold.get ({} : HoldSt) 0).until_ = some (1551 + 300)) ∧ b.holdIn 0 25 1 1622 = b ∧
    (((b.holdIn 0 0 2 1699).hold.get ({} : HoldSt) 0).until_ = none) ∧ ((b.holdIn 0 0 2 1699).holdIn 0 0 3 1776).cnt.get 0 lkHOLDZERO = 1 ∧
    (b.holdIn 3 25 0 1852).cnt.get 0 lkHOLDBAD = 1 ∧ b.cnt.get 0 lkHOLDRX = 1 := by decide
/-- Chapter 15, posting four copies: the first descriptor's bytes pass R395 for VF 3 of package (1, 1), and TAIL and NTAIL. -/
theorem test_posted_descriptor :
    let d := desc [1, 0, 0, 0, 0xA0, 0, 0, 0, 0, 0, 0, 0x40, 0x10, 0, 0, 0, 0, 0, 0, 0, 8, 8, 0, 0, 0, 0, 0x10]
    let P : Package :=
      { upP with rt := { px := 1, py := 1 }, comm := { ni := [(0, ⟨8, 8, 8, 8, 0x123⟩)], vfGlade := [(3, 0x123)] }, fns := [(3, { noGlade := false })] }
    d.op = 1 ∧ d.x = 8 ∧ d.y = 8 ∧ d.loc = 0 ∧ d.len = 1048576 ∧ d.haddr = 0x1040000000 ∧ P.descCheck 3 1 d = (0, 0) ∧
    (~~~(0x504 : BitVec 32) = 0xFFFFFAFB) := by decide +kernel
/-- Table 16.11: a mismatch at bole 1 raises FN_INT_BOLE and the summary, and one message leaves. -/
theorem test_cause_and_message :
    let F : Func := { fnU with sumEn := 4, boleEn := 2, msix := { enable := true, vmask := false, addr := 0x9000, data := 3 } }
    let P : Package := { upP with comm := { ni := [(1, ⟨0, 0, 8, 8, 5⟩)], vfGlade := [(3, 5)] }, fns := [(3, F)] }
    let Q := P.setBoleLeaf 1 bcMismatch
    Q.intBole 3 = [1] ∧ Q.summary 3 = 4 ∧ (Q.causeSeen 3 1).value = 2 ∧ Q.rt.tlps = [.msix 3 0x9000 3] ∧ (Q.fn 3).arm = false ∧
    (Q.setBoleLeaf 1 bcMismatch).rt.tlps = Q.rt.tlps := by decide +kernel
/-- Table 18.15, staging one bole of a new glade: writes over MCTP by their PF BAR 0 offsets. -/
def stageS (o v : Nat) (post : GenTabs → Bool) : Prop :=
  Answers (.registerWrite 0 .mctp o (leBytes 4 v)) (one upP) fun t => post (t.pkg 0).stag = true
theorem test_stage_glade :
    stageS 0x82180 0x00080008 (fun g => (g.ni.get {} 1).x0 == 8 && (g.ni.get {} 1).y0 == 8) ∧
    stageS 0x82184 0x00080004 (fun g => (g.ni.get {} 1).w == 4 && (g.ni.get {} 1).h == 8) ∧
    stageS 0x23020 0x00060000 (fun g => (g.west.get {} 2).base == 0 && (g.west.get {} 2).size == 6) ∧
    stageS 0x20048 0x456 (fun g => g.vfGlade.get 0 3 == 0x456) ∧
    stageS 0x20130 0x8003 (fun g => g.engMap.get {} 12 == ⟨3, 0, true⟩) :=
  ⟨⟨_, rfl, by decide +kernel⟩, ⟨_, rfl, by decide +kernel⟩, ⟨_, rfl, by decide +kernel⟩, ⟨_, rfl, by decide +kernel⟩,
    ⟨_, rfl, by decide +kernel⟩⟩
theorem test_stage_commit :
    let s := one { upP with tk := { tickNum := 1234000 } }
    Answers (.registerWrite 0 .mctp 0x13104 (leBytes 4 18)) s (fun t => (t.pkg 0).stag.gen = 18) ∧
    Answers (.registerWrite 0 .mctp 0x13110 (leBytes 8 1234567 ++ leBytes 8 18)) s fun t =>
      (t.pkg 0).rt.commitTick = 1234567 ∧ (t.pkg 0).rt.commitGen = 18 ∧ (t.pkg 0).rt.commitAt = some 1234000 :=
  ⟨⟨_, rfl, by decide +kernel⟩, ⟨_, rfl, by decide +kernel⟩⟩

/-! ### Terms that are not well formed -/

theorem test_wf_rejects :
    Instr.wf (.tickSyncExchange 0 0 (2 ^ 32)) = false ∧ Instr.wf (.awardArrival 0 (2 ^ 48) 0) = false ∧ Instr.wf (.awardArrival 0 0 (2 ^ 20)) = false ∧
    Instr.wf (.streamRecord 0 0 0 (2 ^ 48)) = false ∧
    Instr.wf (.boleLoad 0 0 0 0 {}) = false ∧ Instr.wf (.boleStore 0 0 (2 ^ 32) [0] {}) = false ∧
    Instr.wf (.memoryScrubWriteback 0 (.leaf 0) 0xC0000) = false ∧ Instr.wf (.memoryScrubWriteback 0 (.heart .west) 0x800000) = false ∧
    Instr.wf (.niDmaWrite 0 0 ⟨0, 0, 0, 32, 1, false⟩) = false ∧ Instr.wf (.niDmaRead 0 0 ⟨0, 0, 0, 0, 0, false⟩) = false ∧
    Instr.wf (.overflowReadCompletion 0 1024 .ok []) = false ∧ Instr.wf (.hostReadCompletion 0 1024 .ok []) = false ∧
    Instr.wf (.hostReadTimeout 0 1024) = false ∧ Instr.wf (.arbRequest 0 0 [⟨0, 0, false, false, 0, []⟩]) = false ∧
    Instr.wf (.matrixStep 0 0 ⟨.dense, 2 ^ 32, 0, 0, 0, .bf16, true, 64, 0, 0, 0⟩ []) = false ∧
    (∀ c ∈ [⟨0, 0, 64, .bitmap, 0, 1, 0, .bf16, 0⟩],
      Instr.wf (.storeMask 0 0 c) = false ∧ Instr.wf (.storeMaskTransposed 0 0 c) = false ∧ Instr.wf (.storeValue 0 0 c) = false) ∧
    Instr.wf (.injectionPush 0 0 { push0 with op := .ack }) = false ∧
    Instr.wf (.mcastIssue 0 0 { mop with set := { set2 with nx := 1024 } }) = false ∧
    Instr.wf (.resendDue 0 0 512 0) = false ∧ Instr.wf (.requestUnanswered 0 0 0 256) = false ∧
    Instr.wf (.aliveEntryFree 0 0 512 0) = false := by decide +kernel
theorem test_wf_rejects_more :
    Instr.wf (.cvWrite 0 (.bole 0) 0 24 0) = false ∧ Instr.wf (.twSendWrite 0 0 { eft0 with kind := 16 }) = false ∧
    Instr.wf (.loss 0 32768 0 false) = false ∧ Instr.wf (.clLaunchWrite 0 0 []) = false ∧
    Instr.wf (.linkFrameReceive 0 0 { fr0 with ctl := 8 } false 0 0) = false ∧ Instr.wf (.replayRequest 0 0 4096) = false ∧
    Instr.wf (.linkIdent 0 0 { idG with link := 16 }) = false ∧ Instr.wf (.linkMeasure 0 0 2048 0) = false ∧
    Instr.wf (.twigLaneFrame 0 0 { lane0 with seq := 32 }) = false ∧ Instr.wf (.descriptorFetch 0 0 0 [[]]) = false ∧
    Instr.wf (.gladesCreate 0 [{ spec0 with tag := 32768 }]) = false ∧ Instr.wf (.gladesRemove 0 [0]) = false ∧
    Instr.wf (.joinGrove 3 1) = false ∧ Instr.wf (.redfishPatch 0 .hostAllowance 65536) = false ∧
    Instr.wf (.redfishPatch 0 .bankCapSet (2 ^ 20)) = false ∧ Instr.wf (.halfReadLatch 0 .mctp (2 ^ 32) 4) = false ∧
    Instr.wf (.registerWrite 0 .mctp 0 []) = false ∧ Instr.wf (.pcieLinkUp 0 64 0) = false ∧
    Instr.wf (.arbWithdraw 0 0 34 .entry) = false ∧ Instr.wf (.arbMask 0 32 82) = false ∧ Instr.wf (.arbMaskClear 0 33 8) = false := by
  decide +kernel
end Sys2Proof.Tests
end

section
/-! SUPPORT. The token block's choice of a step (R45, R46, R14), what a tick leaves of the token block, and the statement of
chapter 02 on the step. -/

namespace Sys2Proof.Machine

/-! ### The largest step that the tokens cover (R45) -/

theorem fitStep_le (p avail m : Nat) : fitStep p avail m ≤ m := by
  induction m with
  | zero => exact le_rfl
  | succ m ih =>
    rw [fitStep]
    split
    · exact le_rfl
    · exact ih.trans m.le_succ

theorem fitStep_eq_zero_or_covered (p avail m : Nat) :
    fitStep p avail m = 0 ∨ stepCost (fitStep p avail m) p ≤ avail := by
  induction m with
  | zero => exact .inl rfl
  | succ m ih =>
    rw [fitStep]
    split
    · exact .inr ‹_›
    · exact ih

/-- No step above the one found, up to the bound, is covered. -/
theorem lt_stepCost_of_fitStep_lt {p avail m k : Nat} (hk : fitStep p avail m < k) (hm : k ≤ m) :
    avail < stepCost k p := by
  induction m with
  | zero => omega
  | succ m ih =>
    rw [fitStep] at hk
    split at hk
    · omega
    · next hcost =>
      obtain rfl | hlt := hm.eq_or_lt
      · exact not_le.mp hcost
      · exact ih hk (by omega)

/-! ### The choice, and the clock changes it starts (R45, R46, R436, R14) -/

@[simp] theorem TokenBlk.step_select (t : TokenBlk) (p : Nat) : (t.select p).step = t.chosen p := rfl

theorem TokenBlk.chosen_of_held {t : TokenBlk} (h : t.bringup = true ∨ t.floorWin = true) (p : Nat) : t.chosen p = 0 := by
  simp [TokenBlk.chosen, h]

theorem TokenBlk.chosen_of_free {t : TokenBlk} (hb : t.bringup = false) (hf : t.floorWin = false) (p : Nat) :
    t.chosen p = fitStep p t.available t.maxStep := by
  simp [TokenBlk.chosen, hb, hf]

theorem TokenBlk.ckwNext_select_eq_none_iff (t : TokenBlk) (p : Nat) :
    (t.select p).ckwNext = none ↔ t.ckw = (t.select p).step := by
  simp [TokenBlk.select]

theorem TokenBlk.ckeNext_select_eq_none_iff (t : TokenBlk) (p : Nat) :
    (t.select p).ckeNext = none ↔ t.cke = (t.select p).step := by
  simp [TokenBlk.select]

theorem TokenBlk.eq_step_of_ckwNext_select {t : TokenBlk} {p k : Nat} (h : (t.select p).ckwNext = some k) :
    k = (t.select p).step := by
  have hne : t.ckw ≠ t.chosen p := fun heq => by simp [TokenBlk.select, heq] at h
  simpa [TokenBlk.select, hne, eq_comm] using h

theorem TokenBlk.eq_step_of_ckeNext_select {t : TokenBlk} {p k : Nat} (h : (t.select p).ckeNext = some k) :
    k = (t.select p).step := by
  have hne : t.cke ≠ t.chosen p := fun heq => by simp [TokenBlk.select, heq] at h
  simpa [TokenBlk.select, hne, eq_comm] using h

/-! ### What the parts of a tick leave of a package -/

/-- What every step of a fold leaves, the fold leaves. -/
theorem foldl_keeps {α β γ : Type} (view : β → γ) {g : β → α → β} (h : ∀ b a, view (g b a) = view b) (l : List α) (b : β) :
    view (l.foldl g b) = view b := by
  rw [← List.foldl_hom view (g₂ := fun c _ => c) fun b a => (h b a).symm]
  exact List.foldl_fixed' (fun _ => rfl) l

/-- Closing the occurrences changes boles alone. -/
theorem Package.closeOccs_keeps {γ : Type} (view : Package → γ) (hb : ∀ P k f, view (P.updBole k f) = view P)
    (P : Package) (e : Env) : view (P.closeOccs e) = view P := by
  unfold Package.closeOccs
  refine foldl_keeps view (fun P k => foldl_keeps view (fun P x => ?_) _ P) _ P
  split
  · exact hb _ _ _
  · rfl

/-- Bringing the shapers to a cycle changes boles and links alone. -/
theorem Package.advanceAll_keeps {γ : Type} (view : Package → γ) (hb : ∀ P k f, view (P.updBole k f) = view P)
    (hl : ∀ P l f, view (P.updLink l f) = view P) (P : Package) (now : Nat) : view (P.advanceAll now) = view P :=
  (foldl_keeps view (fun _ _ => hl _ _ _) _ _).trans (foldl_keeps view (fun _ _ => hb _ _ _) _ P)

@[simp] theorem Package.tok_closeOccs (P : Package) (e : Env) : (P.closeOccs e).tok = P.tok :=
  closeOccs_keeps Package.tok Package.tok_updBole P e
@[simp] theorem Package.tk_closeOccs (P : Package) (e : Env) : (P.closeOccs e).tk = P.tk :=
  closeOccs_keeps Package.tk Package.tk_updBole P e
@[simp] theorem Package.tok_advanceAll (P : Package) (now : Nat) : (P.advanceAll now).tok = P.tok :=
  advanceAll_keeps Package.tok Package.tok_updBole Package.tok_updLink P now
@[simp] theorem Package.tk_advanceAll (P : Package) (now : Nat) : (P.advanceAll now).tk = P.tk :=
  advanceAll_keeps Package.tk Package.tk_updBole Package.tk_updLink P now

@[simp] theorem TickBlk.period_fire (t : TickBlk) : t.fire.period = t.period := by
  unfold TickBlk.fire
  cases t.exchSeen <;> rfl

@[simp] theorem Package.tok_vector (P : Package) (f : Nat) : (P.vector f).tok = P.tok := by
  unfold Package.vector
  dsimp only
  split
  · split <;> simp
  · rfl

@[simp] theorem Package.tok_setPkgLeaf (P : Package) (b : BitVec 7) : (P.setPkgLeaf b).tok = P.tok := by
  simp [Package.setPkgLeaf]

/-- The books close, and the step of the next window is chosen from what they leave. -/
@[simp] theorem Package.tok_tokens (P : Package) (window spent : Nat) :
    (P.tokens window spent).tok = (P.tok.close window P.tk.period spent).1.select P.tk.period := by
  unfold Package.tokens
  dsimp only
  split <;> simp

@[simp] theorem Package.tok_snapshots (P : Package) (t : Nat) : (P.snapshots t).tok = P.tok := by
  simp only [Package.snapshots, Package.tok_updRt]
  rw [foldl_keeps Package.tok fun _ _ => Package.tok_updFn _ _ _, foldl_keeps Package.tok fun _ _ => Package.tok_updArb _ _ _,
    foldl_keeps Package.tok fun _ _ => Package.tok_updLink _ _ _, foldl_keeps Package.tok fun _ _ => Package.tok_updBole _ _ _]

@[simp] theorem Package.tok_count (P : Package) (k j n : Nat) : (P.count k j n).tok = P.tok := Package.tok_updBole _ _ _

@[simp] theorem Package.tok_syncSend (P : Package) (e : Env) (l : Nat) : (P.syncSend e l).tok = P.tok := by
  unfold Package.syncSend
  dsimp only
  split <;> rfl

@[simp] theorem Package.tok_syncBegin (P : Package) (e : Env) : (P.syncBegin e).tok = P.tok := by
  unfold Package.syncBegin
  split
  · simp
  · rfl

@[simp] theorem Package.tok_schedTick (P : Package) : P.schedTick.tok = P.tok := by
  simp only [Package.schedTick]
  refine foldl_keeps Package.tok (fun P r => ?_) _ P
  split <;> simp

@[simp] theorem Package.tok_schedLinkTick (P : Package) : P.schedLinkTick.tok = P.tok := by
  unfold Package.schedLinkTick
  refine foldl_keeps Package.tok (fun P l => ?_) _ P
  dsimp only
  split <;> simp

@[simp] theorem Package.tok_pumpReads (P : Package) : P.pumpReads.tok = P.tok := by
  unfold Package.pumpReads
  refine (foldl_keeps Package.tok (fun P w => ?_) _ _).trans (Package.tok_updRt _ _)
  split
  · rfl
  · split <;> exact Package.tok_updRt _ _

@[simp] theorem Package.tok_askRecord (P : Package) (f r : Nat) : (P.askRecord f r).tok = P.tok := by
  unfold Package.askRecord Package.updRing
  split
  · simp
  · split <;> simp [Package.askRead]

@[simp] theorem Package.tok_pollRings (P : Package) : P.pollRings.tok = P.tok := by
  unfold Package.pollRings
  refine foldl_keeps Package.tok (fun P f => ?_) _ P
  split
  · rfl
  · refine foldl_keeps Package.tok (fun P r => ?_) _ P
    dsimp only
    split <;> simp

/-- Of all that a tick does in a package, the close of the books and the choice alone reach the token block. -/
@[simp] theorem Package.tok_tickAt (P : Package) (e : Env) (spent : Nat) :
    (P.tickAt e spent).tok = (P.tok.close P.tk.tickNum P.tk.period spent).1.select P.tk.period := by
  simp [Package.tickAt]

/-! ### The row TICK -/

theorem State.pkg_wake (s : State) (p : Nat) : s.wake.pkg p = (s.pkg p).wake s.now :=
  Tab.get_map ({} : Package) (Package.wake s.now) rfl s.pkgs p

@[simp] theorem Package.tok_wake (P : Package) (now : Nat) : (P.wake now).tok = P.tok := rfl

@[simp] theorem State.pkg_setNow (s : State) (n p : Nat) : ({ s with now := n } : State).pkg p = s.pkg p := rfl

@[simp] theorem State.stand_setNow (s : State) (n st : Nat) : ({ s with now := n } : State).stand st = s.stand st := rfl

@[simp] theorem State.stand_wake (s : State) (n : Nat) : s.wake.stand n = s.stand n := rfl

theorem State.replantPoll_of_none {s : State} {ld : Nat} (hr : (s.stand ld).replant = none) (hw : (s.stand ld).waiting = []) :
    s.replantPoll ld = s := by
  simp [State.replantPoll, hr, hw]

/-- A tick of a package in service, nothing waiting at the Rootstock. -/
theorem answers_tick {p : PkgId} {spent : Nat} {s : State} {post : State → Prop} (hl : (s.pkg p).live = true)
    (hy : (s.pkg p).ready = true) (hr : (s.stand (s.leadOf (p / 64))).replant = none)
    (hw : (s.stand (s.leadOf (p / 64))).waiting = [])
    (h : post (({ s with now := (s.pkg p).tk.nextAt s.now } : State).updPkg p fun P =>
      P.tickAt { s.env p with now := (s.pkg p).tk.nextAt s.now } spent).wake) :
    Answers (.tick p spent) s post := by
  refine ⟨_, rfl, ?_⟩
  simp only [hl, hy, Bool.and_self, if_true]
  rwa [State.replantPoll_of_none (by simpa using hr) (by simpa using hw)]

/-- Settles O7: fitStep finds the largest step that the tokens cover, and a tick leaves the token block as the close of the
books and the choice make it. -/
theorem tokensChooseTheLargestStep : Obligations.TokensChooseTheLargestStep := by
  unfold Obligations.TokensChooseTheLargestStep
  refine ⟨fun t P => ⟨rfl, fun h => t.chosen_of_held h P, fun hb hf => ?_,
    fun _ => TokenBlk.eq_step_of_ckwNext_select, (t.ckwNext_select_eq_none_iff P).mp,
    fun _ => TokenBlk.eq_step_of_ckeNext_select, (t.ckeNext_select_eq_none_iff P).mp⟩, fun p spent s hl hy hr hw => ?_⟩
  · simp only [TokenBlk.step_select, TokenBlk.chosen_of_free hb hf P]
    refine ⟨fitStep_le _ _ _, fitStep_eq_zero_or_covered _ _ _, fun k => lt_stepCost_of_fitStep_lt, fun u hub huf ha hm => ?_⟩
    rw [TokenBlk.chosen_of_free hub huf, ha, hm]
  · refine answers_tick hl hy hr hw ?_
    simp only [State.pkg_wake, State.pkg_updPkg_same, State.pkg_setNow, Package.tok_wake, Package.tok_tickAt]

end Sys2Proof.Machine
end

section
/-! SUPPORT. Where a leaf address and a heartwood offset lie (R58, R62). Both hashes are one kind: the bank or slice is a digit
of the address XOR a fold of the row. The row and the byte keep the other digits, so the digit comes back by folding the row
again, and each place of the array is one address. -/

namespace Sys2Proof.Machine

/-! ### Leaf memory (R58) -/

theorem leafBank_eq_digits (a : Nat) : leafBank a = a / 64 % 32 ^^^ a / 2048 % 32 := rfl

theorem leafBank_eq_fold_leafRow (a : Nat) : leafBank a = a / 64 % 32 ^^^ leafRow a % 32 := by
  have hfold : leafRow a % 32 = a / 2048 % 32 := Nat.mod_mod_of_dvd _ (by decide)
  rw [leafBank_eq_digits, hfold]

theorem leafBank_lt (a : Nat) : leafBank a < 32 :=
  Nat.xor_lt_two_pow (n := 5) (Nat.mod_lt _ (by decide)) (Nat.mod_lt _ (by decide))

theorem leafRow_eq_div {a : Nat} (ha : a < 0x600000) : leafRow a = a / 2048 :=
  Nat.mod_eq_of_lt (by omega : a / 2048 < 4096)

/-- The leaf address of byte o of row r of bank b. -/
def leafAddr (b r o : Nat) : Nat := 2048 * r + 64 * (b ^^^ r % 32) + o

/-- Of all leaf addresses, leafAddr b r o alone lies at this bank, row and byte. -/
theorem leaf_place_iff {a b r o : Nat} (hb : b < 32) (hr : r < 3072) (ho : o < 64) :
    a < 0x600000 ∧ leafBank a = b ∧ leafRow a = r ∧ a % 64 = o ↔ a = leafAddr b r o := by
  have hd : b ^^^ r % 32 < 32 := Nat.xor_lt_two_pow (n := 5) hb (Nat.mod_lt _ (by decide))
  rw [leafBank_eq_fold_leafRow, xor_eq_iff_left_eq, leafAddr]
  constructor
  · rintro ⟨ha, hdigit, rfl, rfl⟩
    rw [← hdigit, leafRow_eq_div ha]
    omega
  · intro h
    have ha : a < 0x600000 := by omega
    have hrow : leafRow a = r := by rw [leafRow_eq_div ha]; omega
    exact ⟨ha, by rw [hrow]; omega, hrow, by omega⟩

/-- Settles O12: a leaf address is its row, its byte and the digit that the bank XOR the row gives back. -/
theorem leafBankHash : Obligations.LeafBankHash := by
  unfold Obligations.LeafBankHash
  refine ⟨fun a ha => ⟨leafBank_eq_digits a, leafBank_lt a, leafRow_eq_div ha, ?_⟩, fun b r o hb hr ho => ?_⟩
  · rw [leafRow_eq_div ha]
    omega
  · obtain ⟨ha, hbank, hrow, hbyte⟩ := (leaf_place_iff hb hr ho).mpr rfl
    exact ⟨leafAddr b r o, ha, hbank, hrow, hbyte, fun a' ha' hb' hr' ho' => (leaf_place_iff hb hr ho).mp ⟨ha', hb', hr', ho'⟩⟩

/-! ### Heartwood (R62) -/

theorem regionOf_own_heart {k a n : Nat} (hn : 0 < n) (hlo : 0x40000000 ≤ a) (hhi : a + n ≤ 0x44000000) :
    regionOf k a n = .heart (halfOf k) (a % 0x4000000) := by
  have hoff : a - 0x40000000 = a % 0x4000000 := by omega
  rw [regionOf, leafTop, if_neg (by omega), if_neg (by omega), if_pos ⟨hlo, hhi⟩, hoff]

theorem regionOf_other_heart {k a n : Nat} (hn : 0 < n) (hlo : 0x48000000 ≤ a) (hhi : a + n ≤ 0x4C000000) :
    regionOf k a n = .heart (otherHalf (halfOf k)) (a % 0x4000000) := by
  have hoff : a - 0x48000000 = a % 0x4000000 := by omega
  rw [regionOf, leafTop, if_neg (by omega), if_neg (by omega), if_neg (by omega), if_pos ⟨hlo, hhi⟩, hoff]

/-- What the bits of the row bring into the slice. -/
def heartFold (r : Nat) : Nat := r % 16 ^^^ r / 16 % 16 ^^^ r / 256 % 16 ^^^ r / 4096 % 8

theorem heartFold_lt (r : Nat) : heartFold r < 16 := by
  have hlast : r / 4096 % 8 < 2 ^ 4 := (Nat.mod_lt _ (by decide)).trans (by decide : 8 < 2 ^ 4)
  have hdigit (x : Nat) : x % 16 < 2 ^ 4 := Nat.mod_lt x (by decide)
  exact Nat.xor_lt_two_pow (Nat.xor_lt_two_pow (Nat.xor_lt_two_pow (hdigit _) (hdigit _)) (hdigit _)) hlast

theorem heartSlice_eq_digits (h : Nat) : heartSlice h =
    h / 128 % 16 ^^^ h / 2048 % 16 ^^^ h / 32768 % 16 ^^^ h / 524288 % 16 ^^^ h / 8388608 % 8 := rfl

theorem heartSlice_eq_fold_heartRow (h : Nat) : heartSlice h = h / 128 % 16 ^^^ heartFold (heartRow h) := by
  have hrow : heartRow h = h / 2048 % 32768 := rfl
  have h0 : heartRow h % 16 = h / 2048 % 16 := by omega
  have h1 : heartRow h / 16 % 16 = h / 32768 % 16 := by omega
  have h2 : heartRow h / 256 % 16 = h / 524288 % 16 := by omega
  have h3 : heartRow h / 4096 % 8 = h / 8388608 % 8 := by omega
  rw [heartSlice_eq_digits, heartFold, h0, h1, h2, h3]
  simp only [Nat.xor_assoc]

theorem heartSlice_lt (h : Nat) : heartSlice h < 16 := by
  rw [heartSlice_eq_fold_heartRow]
  exact Nat.xor_lt_two_pow (n := 4) (Nat.mod_lt _ (by decide)) (heartFold_lt _)

theorem heartRow_eq_div {h : Nat} (hh : h < 0x4000000) : heartRow h = h / 2048 :=
  Nat.mod_eq_of_lt (by omega : h / 2048 < 32768)

/-- The heartwood offset of byte o of row r of slice l. -/
def heartOffset (l r o : Nat) : Nat := 2048 * r + 128 * (l ^^^ heartFold r) + o

/-- Of all heartwood offsets, heartOffset l r o alone lies at this slice, row and byte. -/
theorem heart_place_iff {h l r o : Nat} (hl : l < 16) (hr : r < 32768) (ho : o < 128) :
    h < 0x4000000 ∧ heartSlice h = l ∧ heartRow h = r ∧ h % 128 = o ↔ h = heartOffset l r o := by
  have hd : l ^^^ heartFold r < 16 := Nat.xor_lt_two_pow (n := 4) hl (heartFold_lt r)
  rw [heartSlice_eq_fold_heartRow, xor_eq_iff_left_eq, heartOffset]
  constructor
  · rintro ⟨hh, hdigit, rfl, rfl⟩
    rw [← hdigit, heartRow_eq_div hh]
    omega
  · intro heq
    have hh : h < 0x4000000 := by omega
    have hrow : heartRow h = r := by rw [heartRow_eq_div hh]; omega
    exact ⟨hh, by rw [hrow]; omega, hrow, by omega⟩

/-- Settles O13: an offset is its row, its byte and the digit that the slice XOR the fold of the row gives back. -/
theorem heartwoodSliceHash : Obligations.HeartwoodSliceHash := by
  unfold Obligations.HeartwoodSliceHash
  refine ⟨fun k a n hn => ⟨fun h => regionOf_own_heart hn h.1 h.2, fun h => regionOf_other_heart hn h.1 h.2⟩,
    fun h hh => ⟨heartSlice_eq_digits h, heartSlice_lt h, heartRow_eq_div hh, ?_⟩, fun l r o hl hr ho => ?_⟩
  · rw [heartRow_eq_div hh]
    omega
  · obtain ⟨hh, hslice, hrow, hbyte⟩ := (heart_place_iff hl hr ho).mpr rfl
    exact ⟨heartOffset l r o, hh, hslice, hrow, hbyte,
      fun h' hh' hl' hr' ho' => (heart_place_iff hl hr ho).mp ⟨hh', hl', hr', ho'⟩⟩

end Sys2Proof.Machine
end

section
/-! SUPPORT. The eviction of idle entries from the duplicate-suppression table (R262). -/

namespace Sys2Proof.Machine

/-- In a bole that is up, an event has its effect. -/
theorem State.onBole_up {s : State} {p k : Nat} (f : Env → Package → Package) (h : s.boleUp p k) :
    s.onBole p k f = s.updPkg p (f (s.env p)) := by
  obtain ⟨hlive, hup⟩ := h
  simp [State.onBole, hlive, hup]

@[simp] theorem Package.ni_updNi_same (P : Package) (k : Nat) (f : Ni → Ni) :
    ((P.updNi k f).bole k).ni = f (P.bole k).ni := by
  rw [Package.updNi, Package.bole_updBole_same]
  rfl

/-- Settles O31: the row keeps by a filter the entries that are younger than 5 ticks, T < LAST + 5. -/
theorem suppressionEntriesAreEvicted : Obligations.SuppressionEntriesAreEvicted := by
  unfold Obligations.SuppressionEntriesAreEvicted
  intro p k s hup
  refine ⟨_, rfl, fun d => ?_⟩
  have hyoung : (s.pkg p).tick < d.last + 5 ↔ ¬ (5 : Int) ≤ ((s.pkg p).tk.tickNum : Int) - (d.last : Int) := by
    unfold Package.tick
    omega
  rw [State.onBole_up _ hup, State.pkg_updPkg_same, Package.ni_updNi_same, List.mem_filter, decide_eq_true_iff, hyoung]

end Sys2Proof.Machine
end

section
/-! SUPPORT. How a shaper's levels release a head (R290, R293, R295, R296): a two-bucket level once it has filled for long enough,
a wheel level from its first slot at or after NEXT. -/

namespace Sys2Proof.Machine

theorem ceilDiv_le_iff {a b d : Nat} (hb : 0 < b) : ceilDiv a b ≤ d ↔ a ≤ b * d := by
  rw [ceilDiv, ← Nat.ceilDiv_eq_add_pred_div, ceilDiv_le_iff_le_mul hb]

theorem Rates.good_iff (r : Rates) : r.good = true ↔
    rateOf r.cir ≤ rateOf r.pir ∧ 1024 ≤ rateOf r.pir ∧ 32 ≤ r.cbs ∧ r.cbs ≤ r.pbs ∧ r.pbs ≤ 4095 := by
  rw [Rates.good, decide_eq_true_iff]

theorem Bucket.colour_ne_red_iff (b : Bucket) (n : Nat) : b.colour n ≠ .red ↔ 65536 * n ≤ b.p := by
  unfold Bucket.colour
  split_ifs with hp hc <;> simp [hp]

theorem Colour.worse_ne_red_iff (a b : Colour) : a.worse b ≠ .red ↔ a ≠ .red ∧ b ≠ .red := by
  cases a <;> cases b <;> decide

/-- However little a level held, it is not red for n flits once its peak rate has brought n flits, if n fits its depth. -/
theorem Bucket.fill_colour_ne_red (b : Bucket) {r : Rates} {n dt : Nat} (hdepth : n ≤ r.pbs)
    (hgain : n * 65536 ≤ rateOf r.pir * dt) : (b.fill r dt).colour n ≠ .red := by
  rw [Bucket.colour_ne_red_iff, Bucket.fill]
  exact Nat.le_min.mpr ⟨Nat.mul_le_mul_left _ hdepth, by omega⟩

theorem Svc.colour_of_buckets {v : Svc} (n now : Nat) (hw : v.wheel = false) : v.colour n now = v.bucket.colour n := by
  simp [Svc.colour, hw]

theorem Svc.colour_eq_green_iff_of_wheel {v : Svc} (n now : Nat) (hw : v.wheel = true) :
    v.colour n now = .green ↔ wheelAt v.next ≤ now := by
  simp [Svc.colour, hw]

theorem Shaper.colour_of_svcOf {sh : Shaper} {vn i : Nat} (n now : Nat) (hen : sh.en = true) (hvn : svcOf vn = some i) :
    sh.colour vn n now = (sh.sub.colour n).worse ((sh.svc i).colour n now) := by
  simp [Shaper.colour, hen, hvn]

@[simp] theorem Shaper.en_advance (sh : Shaper) (sub : Rates) (now : Nat) (h0 h1 : List HeadAt) :
    (sh.advance sub now h0 h1).en = sh.en := by
  unfold Shaper.advance
  split <;> rfl

theorem Shaper.sub_advance {sh : Shaper} (sub : Rates) (now : Nat) (h0 h1 : List HeadAt) (hen : sh.en = true) :
    (sh.advance sub now h0 h1).sub = sh.sub.fill sub (now - sh.asOf) := by
  simp [Shaper.advance, hen]

theorem Shaper.wheel_svc_advance (sh : Shaper) (sub : Rates) (now : Nat) (h0 h1 : List HeadAt) (i : Nat) :
    ((sh.advance sub now h0 h1).svc i).wheel = (sh.svc i).wheel := by
  unfold Shaper.advance Shaper.svc
  split_ifs <;> rfl

theorem Shaper.bucket_svc_advance {sh : Shaper} (sub : Rates) (now : Nat) (h0 h1 : List HeadAt) (i : Nat) (hen : sh.en = true) :
    ((sh.advance sub now h0 h1).svc i).bucket = (sh.svc i).bucket.fill (sh.svc i).rates (now - sh.asOf) := by
  unfold Shaper.advance Shaper.svc
  split_ifs <;> rfl

/-- Where both levels are two-bucket and each peak rate has brought n flits, the packet is not red. -/
theorem Shaper.advance_colour_ne_red {sh : Shaper} {sub : Rates} {vn i n now : Nat} (h0 h1 : List HeadAt) (hen : sh.en = true)
    (hvn : svcOf vn = some i) (hw : (sh.svc i).wheel = false) (hsub : n ≤ sub.pbs) (hsvc : n ≤ (sh.svc i).rates.pbs)
    (hgain : n * 65536 ≤ min (rateOf sub.pir) (rateOf (sh.svc i).rates.pir) * (now - sh.asOf)) :
    (sh.advance sub now h0 h1).colour vn n now ≠ .red := by
  rw [Shaper.colour_of_svcOf n now ((sh.en_advance ..).trans hen) hvn, Colour.worse_ne_red_iff,
    Svc.colour_of_buckets n now ((sh.wheel_svc_advance ..).trans hw), Shaper.sub_advance _ _ _ _ hen,
    Shaper.bucket_svc_advance _ _ _ _ _ hen]
  exact ⟨Bucket.fill_colour_ne_red _ hsub (hgain.trans (Nat.mul_le_mul_right _ (Nat.min_le_left _ _))),
    Bucket.fill_colour_ne_red _ hsvc (hgain.trans (Nat.mul_le_mul_right _ (Nat.min_le_right _ _)))⟩

/-- A wheel's first green cycle is not before NEXT. -/
theorem le_wheelAt (next : Nat) : next ≤ 16 * wheelAt next := by
  unfold wheelAt ceilDiv
  omega

/-- Rounding x/16 up to a cycle, and the cycle up to a multiple of 16, costs at most 16 cycles. -/
theorem wheelAt_add_le (t x : Nat) : wheelAt (16 * t + x) ≤ t + (x / 16 + 16) := by
  unfold wheelAt ceilDiv
  omega

@[simp] theorem Shaper.svc_setSvc_same {i : Nat} (sh : Shaper) (v : Svc) : (sh.setSvc i v).svc i = v := by
  unfold Shaper.setSvc Shaper.svc
  split_ifs <;> rfl

theorem Shaper.wheel_svc_debit {sh : Shaper} {vn i : Nat} (n t : Nat) (hen : sh.en = true) (hvn : svcOf vn = some i) :
    ((sh.debit vn n t).svc i).wheel = (sh.svc i).wheel := by
  simp only [Shaper.debit, hen, hvn, if_true, Shaper.svc_setSvc_same]
  split_ifs <;> rfl

theorem Shaper.next_svc_debit {sh : Shaper} {vn i : Nat} (n t : Nat) (hen : sh.en = true) (hvn : svcOf vn = some i)
    (hw : (sh.svc i).wheel = true) :
    ((sh.debit vn n t).svc i).next = max (sh.svc i).next (16 * t) + n * (sh.svc i).spacing := by
  simp only [Shaper.debit, hen, hvn, hw, if_true, Shaper.svc_setSvc_same]
  split_ifs <;> rfl

/-- An admission in a green cycle finds NEXT in the past, so the wheel turns on from the admission's own cycle. -/
theorem Shaper.next_svc_debit_of_green {sh : Shaper} {vn i n t : Nat} (hen : sh.en = true) (hvn : svcOf vn = some i)
    (hw : (sh.svc i).wheel = true) (hgreen : (sh.svc i).colour n t = .green) :
    ((sh.debit vn n t).svc i).next = 16 * t + n * (sh.svc i).spacing := by
  have hpast : (sh.svc i).next ≤ 16 * t :=
    (le_wheelAt _).trans (Nat.mul_le_mul_left 16 ((Svc.colour_eq_green_iff_of_wheel n t hw).mp hgreen))
  rw [Shaper.next_svc_debit n t hen hvn hw, Nat.max_eq_right hpast]

/-- Settles O42: the cycles since asOf bring n flits at the smallest peak rate, and NEXT after an admission in cycle t lies
n * SPACING sixteenths of a cycle after t. -/
theorem redHeadsAreReleased : Obligations.RedHeadsAreReleased := by
  unfold Obligations.RedHeadsAreReleased
  constructor
  · intro sh sub vn i n now h0 h1 hen hvn hw hsub hsvc hn _ hwait
    obtain ⟨-, hsubPir, hsubCbs, hsubPbs, -⟩ := sub.good_iff.mp hsub
    obtain ⟨-, hsvcPir, hsvcCbs, hsvcPbs, -⟩ := (sh.svc i).rates.good_iff.mp hsvc
    have hpos : 0 < min (rateOf sub.pir) (rateOf (sh.svc i).rates.pir) := by omega
    exact Shaper.advance_colour_ne_red h0 h1 hen hvn hw (by omega) (by omega) ((ceilDiv_le_iff hpos).mp hwait)
  · intro sh vn i n m t now hen hvn hw hgreen hnow
    have hw' : ((sh.debit vn n t).svc i).wheel = true := (Shaper.wheel_svc_debit n t hen hvn).trans hw
    rw [Svc.colour_eq_green_iff_of_wheel m now hw', Shaper.next_svc_debit_of_green hen hvn hw hgreen]
    exact (wheelAt_add_le t _).trans hnow

end Sys2Proof.Machine
end
